-- ==== Sys2Proof/Word.lean ====
section
/-! DEFINITION. The word types of the engine: bytes, 32-bit check values, byte strings (spec/00_scope.md R12). -/

namespace Sys2Proof

/-- "A byte is 8 bits" (R12). -/
abbrev Byte := BitVec 8

/-- The 32-bit value the checksum function returns (R112). -/
abbrev CheckValue := BitVec 32

/-- A byte string, byte 0 first (R12): a frame, a received buffer or a packet. -/
abbrev Bytes := List Byte

end Sys2Proof
end

