-- ==== Sys2Proof/Config.lean ====
section
/-! DEFINITION. The design-time parameters of the engine (spec/00_scope.md R7 to R9) and the free values
the spec leaves open (constants with no body: nothing can evaluate them). -/

namespace Sys2Proof

/-- The two private buffer memories (R39, R60). -/
inductive Space where
  | outbox
  | reassembly
  deriving DecidableEq, Repr

/-- Which checksum function the engine is built with. `jamcrc` is the reference instantiation of R113;
`other k` is a checksum about which nothing is known but the zero-residue law of R112 (log 4). -/
inductive Checksum where
  | jamcrc
  | other (k : Nat)
  deriving DecidableEq, Repr

/-- The parameters of the table of R7. `R` and the frame lengths are derived from them below. -/
structure Config where
  maxSeq   : Nat        -- MAX_SEQ
  w        : Nat        -- W
  fixedLen : Nat        -- FIXED_LEN
  rxMax    : Nat        -- RX_MAX
  ck       : Checksum   -- CK
  tData    : Nat        -- T_DATA
  tAck     : Nat        -- T_ACK
  tShort   : Nat        -- T_SHORT
  tLong    : Nat        -- T_LONG
  tStep    : Nat        -- T_STEP
  deriving DecidableEq, Repr

namespace Config

/-- Ring size `R = MAX_SEQ + 1` (R7). -/
def r (c : Config) : Nat := c.maxSeq + 1

/-- `CK_LEN` (R7). -/
def ckLen : Nat := 4

/-- `CTRL_HDR`: kind and ack (R7). -/
def ctrlHdr : Nat := 2

/-- `DATA_HDR`: kind, ack and seq (R7). -/
def dataHdr : Nat := 3

/-- `CTRL_LEN = CTRL_HDR + CK_LEN` (R7, R80). -/
def ctrlLen : Nat := ctrlHdr + ckLen

/-- `MIN_LEN = CTRL_LEN` (R7, R116). -/
def minLen : Nat := ctrlLen

/-- `DATA_LEN = DATA_HDR + FIXED_LEN + CK_LEN` (R7, R80). -/
def dataLen (c : Config) : Nat := dataHdr + c.fixedLen + ckLen

/-- The configurations the block can be built with: `1 <= MAX_SEQ <= 255`, `MAX_SEQ` odd, `W = R/2`
exactly, `FIXED_LEN >= 1`, `RX_MAX >= DATA_LEN` (R7, R8). The delays are not looked at: the block
enforces no relation between them (spec/91_not_in_source.md, 42_timer_set). -/
def legal (c : Config) : Bool :=
  decide (1 ≤ c.maxSeq) && decide (c.maxSeq ≤ 255) && decide (c.maxSeq % 2 = 1) &&
  decide (2 * c.w = c.r) && decide (1 ≤ c.fixedLen) && decide (c.dataLen ≤ c.rxMax)

/-- The constraints R7 puts on the five delays. No rule of the step depends on them (R262). -/
def delaysLegal (c : Config) : Bool :=
  decide (0 < c.tData) && decide (0 < c.tAck) && decide (0 < c.tShort) &&
  decide (c.tShort < c.tLong) && decide (0 < c.tStep)

/-- `ceil(log2 n)` for `n >= 1` (R9). -/
def clog2 (n : Nat) : Nat := if n ≤ 1 then 0 else Nat.log2 (n - 1) + 1

/-- `SEQ_BITS = ceil(log2 R)` (R9). -/
def seqBits (c : Config) : Nat := clog2 c.r

/-- `SLOT_BITS = ceil(log2 W)`, 1 when `W = 1` (R9). -/
def slotBits (c : Config) : Nat := if c.w = 1 then 1 else clog2 c.w

/-- `CNT_BITS = ceil(log2(W + 1))` (R9). -/
def cntBits (c : Config) : Nat := clog2 (c.w + 1)

/-! ### Free values: no body, so no proof can know them -/

/-- The byte a buffer cell holds before anything is written to it, by reset count, memory and cell
(R23, R29, R41: "unspecified"; log 5). -/
opaque freeByte : Nat → Space → Nat → Byte

/-- `rt_delay[i]` after the n-th reset (R41: "unspecified"; log 6). -/
opaque freeRtDelay : Nat → Nat → Nat

/-- `ack_delay` after the n-th reset (R41: "unspecified"; log 6). -/
opaque freeAckDelay : Nat → Nat

/-- What the checksum `other k` gives a buffer that does not end in the trailer of the bytes before it
(R112: CK is left open; log 4). -/
opaque freeCheck : Nat → Bytes → CheckValue

/-- The OPEN delays of R7, as far as R7 leaves them open (log 7). -/
opaque openTData : Nat
opaque openTAck : Nat
opaque openTShort : Nat
opaque openTLong : Nat
opaque openTStep : Nat

/-- The reference system: the defaults of R7. The delays have no default: each is an open constant
subject to the constraints of R7 (log 7). -/
def reference : Config where
  maxSeq   := 127
  w        := 64
  fixedLen := 256
  rxMax    := 263
  ck       := .jamcrc
  tData    := openTData + 1
  tAck     := openTAck + 1
  tShort   := openTShort + 1
  tLong    := openTShort + openTLong + 2
  tStep    := openTStep + 1

end Config

end Sys2Proof
end

