-- ==== Sys2Proof/Syntax.lean ====
section
/-! DEFINITION. The operations of the engine, one constructor per row of spec/opcode_table.json (R100), and
the event descriptors, frames and decode results they are about (R90, R80, R115). -/

namespace Sys2Proof

/-- The three frame kinds (R80). -/
inductive FrameKind where
  | data
  | ack
  | nak
  deriving DecidableEq, Repr

/-- A frame with its fields (R80, R82): the operands of ENCODE. -/
inductive Frame where
  | data (ack seq : Nat) (payload : Bytes)
  | ack (ack : Nat)
  | nak (ack : Nat)
  deriving DecidableEq, Repr

/-- The five results of DECODE (R115). -/
inductive DecodeResult where
  | data (ack seq : Nat) (payload : Bytes)
  | ack (ack : Nat)
  | nak (ack : Nat)
  | corruptFrame
  | malformedFrame
  deriving DecidableEq, Repr

/-- An event descriptor `{code: 3 bits, seq: 8 bits, len, data: len bytes}` (R90). -/
structure Event where
  code : BitVec 3
  seq  : Byte
  data : Bytes
  deriving DecidableEq, Repr

/-- The `len` field: `data` is `len` bytes (R90). -/
def Event.len (e : Event) : Nat := e.data.length

/-- What the outside presents to the block at a step boundary: an event descriptor, or the reset input
asserted (R90, R250). -/
inductive Input where
  | event (e : Event)
  | reset
  deriving DecidableEq, Repr

/-- One constructor per row of spec/opcode_table.json. Ring values, counts and delays are numbers, wire
and descriptor fields bytes. -/
inductive Instr where
  -- wire frames and the two other results of decoding a buffer
  | data (ack seq : Nat) (payload : Bytes)
  | ack (ack : Nat)
  | nak (ack : Nat)
  | malformed
  | corrupt (claimedSeq : Option Byte)
  -- events
  | upperReady (packet : Bytes)
  | channelReady
  | frameReceived (b : Bytes)
  | retxTimeout (seq : Byte)
  | ackTimeout
  | reservedEvent0
  | reservedEvent6
  | reservedEvent7
  -- codec
  | encode (kind : FrameKind) (ack seq : Nat) (payload : Bytes)
  | decode (b : Bytes)
  -- ring
  | inc (s : Nat)
  | slot (s : Nat)
  | between (a b c : Nat)
  | ackval
  -- timer
  | armRt (s d : Nat)
  | cancelRt (s : Nat)
  | armAck (d : Nat)
  | cancelAck
  -- sender
  | submit (p : Bytes)
  | transmit (kind : FrameKind) (q : Nat)
  | resend (q : Nat)
  | ackThrough (a : Nat)
  | nakResend (a : Nat)
  -- receiver
  | onData (q : Nat) (p : Bytes)
  | sendAck
  | sendNak
  -- engine
  | rxCorrupt (b : Bytes)
  | rxMalformed
  | rxData (a q : Nat) (p : Bytes)
  | rxNak (a : Nat)
  | rxAck (a : Nat)
  | admission
  | step (e : Event)
  -- system
  | reset
  deriving DecidableEq, Repr

end Sys2Proof
end

