-- ==== Sys2Proof/WellFormed.lean ====
section
/-! DEFINITION. Which operand values the spec gives each operation (R90, R111, R130 to R170). What an
operation asks of the STATE (an outstanding sequence, room in the window) is not syntax and is not here. -/

namespace Sys2Proof

/-- A ring value: 0..MAX_SEQ (R15). -/
def Config.ring (c : Config) (s : Nat) : Bool := decide (s ≤ c.maxSeq)

/-- A packet: exactly `FIXED_LEN` bytes (R90, R155). -/
def Config.packet (c : Config) (p : Bytes) : Bool := decide (p.length = c.fixedLen)

/-- A buffer the channel can present: at most `RX_MAX` bytes (R7, R90). -/
def Config.buffer (c : Config) (b : Bytes) : Bool := decide (b.length ≤ c.rxMax)

/-- The descriptors that can be presented: a received buffer has at most `RX_MAX` bytes (R90; item 9 of
spec/93_implementation_defined.md). The fields an event's code does not use are ignored (R90). -/
def Event.presentable (c : Config) (e : Event) : Bool := !(decide (e.code = 3#3)) || c.buffer e.data

def Instr.wellFormed (c : Config) : Instr → Bool
  | .data a q p => c.ring a && c.ring q && c.packet p
  | .ack a => c.ring a
  | .nak a => c.ring a
  | .malformed => true
  | .corrupt _ => true
  | .upperReady _ => true
  | .channelReady => true
  | .frameReceived b => c.buffer b
  | .retxTimeout _ => true
  | .ackTimeout => true
  | .reservedEvent0 => true
  | .reservedEvent6 => true
  | .reservedEvent7 => true
  | .encode k a q p =>
    c.ring a && (match k with | .data => c.ring q && c.packet p | .ack => true | .nak => true)
  | .decode b => c.buffer b
  | .inc s => c.ring s
  | .slot s => c.ring s
  | .between a b d => c.ring a && c.ring b && c.ring d
  | .ackval => true
  | .armRt s _ => c.ring s
  | .cancelRt s => c.ring s
  | .armAck _ => true
  | .cancelAck => true
  | .submit p => c.packet p
  | .transmit k q => match k with | .data => c.ring q | .ack => true | .nak => true
  | .resend q => c.ring q
  | .ackThrough a => c.ring a
  | .nakResend a => c.ring a
  | .onData q p => c.ring q && c.packet p
  | .sendAck => true
  | .sendNak => true
  | .rxCorrupt b => c.buffer b
  | .rxMalformed => true
  | .rxData a q p => c.ring a && c.ring q && c.packet p
  | .rxNak a => c.ring a
  | .rxAck a => c.ring a
  | .admission => true
  | .step e => e.presentable c
  | .reset => true

end Sys2Proof
end

