-- ==== Sys2Proof/Decode.lean ====
section
/-! DEFINITION. The checksum (R112, R113), the frame codec (R111, R115 to R120), the event decoder (R90, R92,
R201) and, after them, the encoder. Decoding is total and refuses by name. -/

namespace Sys2Proof

/-! ### Checksum -/

/-- The trailer bytes of a check value: byte `j` is bits `[8j+7:8j]`, least significant byte first (R86). -/
def trailerBytes (v : CheckValue) : Bytes :=
  [v.extractLsb' 0 8, v.extractLsb' 8 8, v.extractLsb' 16 8, v.extractLsb' 24 8]

/-- One of the eight shifts of R113: `c <- (c >> 1) xor (0xEDB88320 if c[0] = 1 else 0)`. -/
def crcShift (c : CheckValue) : CheckValue :=
  (c >>> 1) ^^^ (if c.getLsbD 0 then 0xEDB88320#32 else 0#32)

def crcShifts : Nat → CheckValue → CheckValue
  | 0, c => c
  | n + 1, c => crcShifts n (crcShift c)

/-- One byte of R113: `c <- c xor zext_32(x)`, then eight shifts. -/
def crcByte (c : CheckValue) (x : Byte) : CheckValue := crcShifts 8 (c ^^^ x.zeroExtend 32)

/-- CRC-32/JAMCRC, the reference checksum (R113). -/
def crc32Jam (b : Bytes) : CheckValue := b.foldl crcByte 0xFFFFFFFF#32

/-- The checksum that agrees with `g` but for the buffers the zero-residue law speaks of: a buffer that
ends in the trailer of the bytes before it has check value 0 (R112). `fuel` bounds the length. Every
checksum that obeys the law is of this form (log 4). -/
def closedCheck (g : Bytes → CheckValue) : Nat → Bytes → CheckValue
  | 0, b => g b
  | fuel + 1, b =>
    if 4 ≤ b.length ∧
        b.drop (b.length - 4) = trailerBytes (closedCheck g fuel (b.take (b.length - 4))) then 0#32
    else g b

/-- The checksum function `CK` of the configuration (R112). -/
def Checksum.check : Checksum → Bytes → CheckValue
  | .jamcrc, b => crc32Jam b
  | .other k, b => closedCheck (Config.freeCheck k) b.length b

/-- `CK(b)` (R112). -/
def Config.check (c : Config) (b : Bytes) : CheckValue := c.ck.check b

/-- `trailer(h)` (R86). -/
def Config.trailer (c : Config) (h : Bytes) : Bytes := trailerBytes (c.check h)

/-! ### Frame codec -/

/-- The wire byte of a number below 256 (R82). -/
def wireByte (n : Nat) : Byte := BitVec.ofNat 8 n

/-- The `kind` byte (R81). -/
def FrameKind.byte : FrameKind → Byte
  | .data => 0x01#8
  | .ack => 0x02#8
  | .nak => 0x03#8

/-- Everything before the trailer (R83 to R85). -/
def Frame.header : Frame → Bytes
  | .data a q p => FrameKind.data.byte :: wireByte a :: wireByte q :: p
  | .ack a => [FrameKind.ack.byte, wireByte a]
  | .nak a => [FrameKind.nak.byte, wireByte a]

/-- ENCODE (R111): the wire bytes of a frame. -/
def encodeFrame (c : Config) (f : Frame) : Bytes := f.header ++ c.trailer f.header

/-- The frame named by ENCODE's operands: `seq` and `payload` are ignored for ACK and NAK (R111). -/
def Frame.ofOperands (k : FrameKind) (a q : Nat) (p : Bytes) : Frame :=
  match k with
  | .data => .data a q p
  | .ack => .ack a
  | .nak => .nak a

/-- Byte `i` of a buffer, 0 past its end (every use is behind a length test). -/
def byteOf (b : Bytes) (i : Nat) : Byte := b.getD i 0#8

/-- DECODE (R115), the tests in the order given there. -/
def decodeFrame (c : Config) (b : Bytes) : DecodeResult :=
  if b.length < Config.minLen then .corruptFrame
  else if c.check b ≠ 0#32 then .corruptFrame
  else
    let a := (byteOf b 1).toNat
    if byteOf b 0 = 0x01#8 then
      if b.length ≠ c.dataLen then .malformedFrame
      else
        let q := (byteOf b 2).toNat
        if c.maxSeq < a ∨ c.maxSeq < q then .malformedFrame
        else .data a q ((b.drop 3).take c.fixedLen)
    else if byteOf b 0 = 0x02#8 then
      if b.length ≠ Config.ctrlLen then .malformedFrame
      else if c.maxSeq < a then .malformedFrame
      else .ack a
    else if byteOf b 0 = 0x03#8 then
      if b.length ≠ Config.ctrlLen then .malformedFrame
      else if c.maxSeq < a then .malformedFrame
      else .nak a
    else .malformedFrame

/-- The claimed sequence of a buffer: byte 2 whatever byte 0 is, absent below three bytes (R120). -/
def claimedSeq (b : Bytes) : Option Byte := if 3 ≤ b.length then some (byteOf b 2) else none

/-! ### Decoding to operations -/

/-- Why the decoder gives no operation. -/
inductive DecodeError where
  /-- A FRAME_RECEIVED descriptor with `len > RX_MAX`, which the descriptor type excludes (R90). -/
  | oversizeBuffer
  deriving DecidableEq, Repr

/-- The operation a descriptor's 3-bit code selects (R90, R92, R201). -/
def decodeEvent (c : Config) (e : Event) : Except DecodeError Instr :=
  match e.code.toNat with
  | 0 => .ok .reservedEvent0
  | 1 => .ok (.upperReady e.data)
  | 2 => .ok .channelReady
  | 3 => if c.buffer e.data then .ok (.frameReceived e.data) else .error .oversizeBuffer
  | 4 => .ok (.retxTimeout e.seq)
  | 5 => .ok .ackTimeout
  | 6 => .ok .reservedEvent6
  | _ => .ok .reservedEvent7

/-- The wire row a received buffer stands for (R100, R115, R120). -/
def decodeWire (c : Config) (b : Bytes) : Instr :=
  match decodeFrame c b with
  | .data a q p => .data a q p
  | .ack a => .ack a
  | .nak a => .nak a
  | .malformedFrame => .malformed
  | .corruptFrame => .corrupt (claimedSeq b)

/-- What has an encoding: an input of the block, or a frame on the wire (R100). -/
inductive Encoded where
  | input (i : Input)
  | wire (b : Bytes)
  deriving DecidableEq, Repr

def decodeInput (c : Config) : Input → Except DecodeError Instr
  | .event e => decodeEvent c e
  | .reset => .ok .reset

def decode (c : Config) : Encoded → Except DecodeError Instr
  | .input i => decodeInput c i
  | .wire b => .ok (decodeWire c b)

/-! ### Words of the opcode table

The table gives an event the 3-bit code of its descriptor and a wire frame its byte 0 "of a buffer that
passed the length and checksum tests". Both fit in one byte, so a word of one byte is read as the start
of a descriptor and a longer one as the start of a frame (logs 9, 10). -/

/-- The descriptor whose bits are `w`: `code` in bits 2..0, `seq` in bits 10..3, no data (R90; log 9). -/
def Event.ofTableWord (w : Nat) : Event where
  code := BitVec.ofNat 3 w
  seq  := BitVec.ofNat 8 (w / 8)
  data := []

/-- Byte `i` of a table word, byte 0 in its least significant bits. -/
def tableByte (w i : Nat) : Byte := BitVec.ofNat 8 (w / 256 ^ i)

/-- The buffer that starts as `w` does and has passed DECODE's length and checksum tests: the header of
its kind, zeros past the word's end, and the trailer of that header (R83 to R86; log 10). -/
def frameOfTableWord (c : Config) (w : Nat) : Bytes :=
  let n := if tableByte w 0 = 0x01#8 then Config.dataHdr + c.fixedLen else Config.ctrlHdr
  let h := (List.range n).map (tableByte w)
  h ++ c.trailer h

/-- The input that puts a table word before the block: a descriptor, or the arrival of a frame. -/
def Input.ofTableWord (c : Config) (nbits w : Nat) : Input :=
  if nbits ≤ 8 then .event (Event.ofTableWord w)
  else .event { code := 3#3, seq := 0#8, data := frameOfTableWord c w }

/-- What the decoder reads from a word of the opcode table, in the reference configuration. -/
def decodeTableWord (nbits w : Nat) : Option Instr :=
  let e := if nbits ≤ 8 then Encoded.input (.event (Event.ofTableWord w))
    else Encoded.wire (frameOfTableWord Config.reference w)
  match decode Config.reference e with
  | .ok i => some i
  | .error _ => none

/-! ### Encoder -/

/-- The descriptor of an event, its unused fields empty (R90). -/
def Event.plain (code : BitVec 3) : Event where
  code := code
  seq  := 0#8
  data := []

/-- The encoding of an operation that has one: events and RESET as inputs, the three frames as wire
bytes. MALFORMED and CORRUPT are no frame a peer sends and the internal operations have no encoding
(R88, R100). -/
def encode (c : Config) : Instr → Option Encoded
  | .data a q p => some (.wire (encodeFrame c (.data a q p)))
  | .ack a => some (.wire (encodeFrame c (.ack a)))
  | .nak a => some (.wire (encodeFrame c (.nak a)))
  | .malformed => none
  | .corrupt _ => none
  | .upperReady p => some (.input (.event { Event.plain 1#3 with data := p }))
  | .channelReady => some (.input (.event (Event.plain 2#3)))
  | .frameReceived b => some (.input (.event { Event.plain 3#3 with data := b }))
  | .retxTimeout q => some (.input (.event { Event.plain 4#3 with seq := q }))
  | .ackTimeout => some (.input (.event (Event.plain 5#3)))
  | .reservedEvent0 => some (.input (.event (Event.plain 0#3)))
  | .reservedEvent6 => some (.input (.event (Event.plain 6#3)))
  | .reservedEvent7 => some (.input (.event (Event.plain 7#3)))
  | .encode _ _ _ _ => none
  | .decode _ => none
  | .inc _ => none
  | .slot _ => none
  | .between _ _ _ => none
  | .ackval => none
  | .armRt _ _ => none
  | .cancelRt _ => none
  | .armAck _ => none
  | .cancelAck => none
  | .submit _ => none
  | .transmit _ _ => none
  | .resend _ => none
  | .ackThrough _ => none
  | .nakResend _ => none
  | .onData _ _ => none
  | .sendAck => none
  | .sendNak => none
  | .rxCorrupt _ => none
  | .rxMalformed => none
  | .rxData _ _ _ => none
  | .rxNak _ => none
  | .rxAck _ => none
  | .admission => none
  | .step _ => none
  | .reset => some (.input .reset)

end Sys2Proof
end

