-- ==== Sys2Proof/Machine/State.lean ====
section
/-! DEFINITION. The state of the engine as plain data (spec/10_state.md), its outputs (spec/30_encoding.md R95,
R96), the stops of the machine, and the state right after reset (R41). -/

namespace Sys2Proof.Machine

/-- A buffer memory: its written cells, addresses strictly rising. Byte `k` of slot `i` is the cell
`i * FIXED_LEN + k` (log 14). A cell that nothing has written is not listed (log 5). -/
abbrev Memory := List Host.Cell

/-- The dispatcher's phase (R38): WAIT between steps, RUN inside one. -/
inductive Phase where
  | wait
  | run
  deriving DecidableEq, Repr

/-- The classification of the event just processed (R220). -/
inductive FrameClass where
  | none
  | corrupt
  | malformed
  | dataAccepted
  | dataDup
  | dataOow
  | ack
  | nak
  deriving DecidableEq, Repr

/-- The output actions (R95). -/
inductive Action where
  | tx (bytes : Bytes)
  | deliver (payload : Bytes)
  | armRt (seq delay : Nat)
  | cancelRt (seq : Nat)
  | armAck (delay : Nat)
  | cancelAck
  deriving DecidableEq, Repr

/-- The value an internal operation returns when it is run as an operation of its own (log 3). -/
inductive Result where
  | none
  | ring (v : Nat)
  | truth (v : Bool)
  | bytes (b : Bytes)
  | frame (d : DecodeResult)
  | delivered (out : List Bytes) (cls : FrameClass)
  deriving DecidableEq, Repr

/-- The four bits of `ERR` (R33). -/
inductive ErrBit where
  | adm
  | malformed
  | spurious
  | evcode
  deriving DecidableEq, Repr

/-- Everything the spec gives the machine (R20 to R41), its design-time parameters, its outputs and the
input stream it reads. -/
structure State where
  /-- the design-time parameters, which no operation writes (R7, R34; log 1) -/
  cfg           : Config
  -- SenderState
  ackExpected   : Nat
  nextToSend    : Nat
  bufferedCount : Nat
  outbox        : Memory
  -- ReceiverState
  expected      : Nat
  tooFar        : Nat
  arrived       : List Bool
  reassembly    : Memory
  -- TimerSet
  rtArmed       : List Bool
  rtDelay       : List Nat
  ackArmed      : Bool
  ackDelay      : Nat
  -- flags, status, phase
  nakSuppressed : Bool
  chanReady     : Bool
  admEnable     : Bool
  err           : BitVec 4
  phase         : Phase
  -- outputs of the latest step
  actions       : List Action
  cls           : FrameClass
  result        : Result
  -- the event stream (log 2) and the free-value counter (log 8)
  inputs        : List Input
  epoch         : Nat
  deriving DecidableEq, Repr

/-- No condition stops the engine: "None of these are surfaced as fatal errors" (R222), so there is no
fault. Violations of the environment's contract are recorded in `ERR` and the machine goes on (R224). -/
inductive Fault where
  deriving DecidableEq, Repr

/-- Why a step gives no next state. Each is safe: the machine stops where the spec admits no behaviour. -/
inductive Refusal where
  /-- Raised by `exec` for an operation that has no meaning in this model; safe. No arm raises it. -/
  | notModelled (mnemonic : String)
  /-- Raised by `step` when the parameters are not those of a legal configuration, which "a model must
  refuse" (R8); safe. -/
  | illegalConfiguration
  /-- Raised by `step` on a FRAME_RECEIVED descriptor with `len > RX_MAX`, which "cannot be presented"
  (item 9 of spec/93_implementation_defined.md); safe. -/
  | unpresentableDescriptor
  deriving DecidableEq, Repr

/-- The machine right after reset, in the reference configuration (R41). The buffers list nothing (log 5),
the delays are free values (log 6), the outputs and the input stream are empty (logs 2, 3). -/
def State.reset : State where
  cfg           := Config.reference
  ackExpected   := 0
  nextToSend    := 0
  bufferedCount := 0
  outbox        := []
  expected      := 0
  tooFar        := 64
  arrived       := List.replicate 64 false
  reassembly    := []
  rtArmed       := List.replicate 64 false
  rtDelay       := (List.range 64).map (Config.freeRtDelay 0)
  ackArmed      := false
  ackDelay      := Config.freeAckDelay 0
  nakSuppressed := false
  chanReady     := false
  admEnable     := false
  err           := 0#4
  phase         := .wait
  actions       := []
  cls           := .none
  result        := .none
  inputs        := []
  epoch         := 0

end Sys2Proof.Machine
end

