-- ==== Sys2Proof/Machine/Operands.lean ====
section
/-! DEFINITION. The four functions of the sequence ring (spec/41_ring_arithmetic.md) and the window tests made
with them. -/

namespace Sys2Proof.Machine

/-- `inc(s) = (s + 1) mod R` (R130). -/
def inc (c : Config) (s : Nat) : Nat := (s + 1) % c.r

/-- `slot(s) = s mod W` (R131). -/
def slot (c : Config) (s : Nat) : Nat := s % c.w

/-- `between(a, b, c)`, the three clauses of R132. -/
def between (a b c : Nat) : Bool :=
  (decide (a ≤ b) && decide (b < c)) ||
  (decide (c < a) && decide (a ≤ b)) ||
  (decide (c < a) && decide (b < c))

/-- `ackval() = (expected + MAX_SEQ) mod R` (R134). -/
def State.ackval (s : State) : Nat := (s.expected + s.cfg.maxSeq) % s.cfg.r

/-- An outstanding sequence: `between(ack_expected, q, next_to_send)` (R15). -/
def State.outstanding (s : State) (q : Nat) : Bool := between s.ackExpected q s.nextToSend

/-- A sequence the receiver accepts: `between(expected, q, too_far)` (R170). -/
def State.inWindow (s : State) (q : Nat) : Bool := between s.expected q s.tooFar

/-- `arrived[slot(q)]` (R27). -/
def State.arrivedAt (s : State) (q : Nat) : Bool := s.arrived.getD (slot s.cfg q) false

/-- `rt_armed[slot(q)]` (R35). -/
def State.armedAt (s : State) (q : Nat) : Bool := s.rtArmed.getD (slot s.cfg q) false

/-- `rt_delay[slot(q)]` (R35). -/
def State.delayAt (s : State) (q : Nat) : Nat := s.rtDelay.getD (slot s.cfg q) 0

/-- Whether a buffer's claimed sequence is `expected`; an absent one never is (R120). -/
def State.claims (s : State) (claimed : Option Byte) : Bool :=
  match claimed with
  | some b => decide (b.toNat = s.expected)
  | none => false

end Sys2Proof.Machine
end

