-- ==== Sys2Proof/Machine/Flags.lean ====
section
/-! DEFINITION. The flags (R30 to R32), the status register (R33) and the numeric codes of the classes (R220). -/

namespace Sys2Proof.Machine

/-- The bit of `ERR` (R33). -/
def ErrBit.index : ErrBit → Nat
  | .adm => 0
  | .malformed => 1
  | .spurious => 2
  | .evcode => 3

/-- `ERR.x` (R33). -/
def State.errBit (s : State) (b : ErrBit) : Bool := s.err.getLsbD b.index

/-- The 3-bit code of a class (R220). -/
def FrameClass.code : FrameClass → BitVec 3
  | .none => 0#3
  | .corrupt => 1#3
  | .malformed => 2#3
  | .dataAccepted => 3#3
  | .dataDup => 4#3
  | .dataOow => 5#3
  | .ack => 6#3
  | .nak => 7#3

/-- The admission expression `buffered_count < W and chan_ready = 1` (R200). -/
def State.admissible (s : State) : Bool := decide (s.bufferedCount < s.cfg.w) && s.chanReady

/-- NAK-suppression becomes active: a NAK was sent (R30, R172). -/
def State.suppressNak (s : State) : State := { s with nakSuppressed := true }

/-- NAK-suppression ends: a payload was delivered (R30, R186). -/
def State.allowNak (s : State) : State := { s with nakSuppressed := false }

/-- `chan_ready <- 1` (R182). -/
def State.noteChannelReady (s : State) : State := { s with chanReady := true }

/-- `chan_ready <- 0` (R157). -/
def State.noteTransmission (s : State) : State := { s with chanReady := false }

/-- ADMISSION (R200): `adm_enable` is recomputed. -/
def State.admission (s : State) : State := { s with admEnable := s.admissible }

end Sys2Proof.Machine
end

