-- ==== Sys2Proof/Machine/Ops.lean ====
section
/-! DEFINITION. The shared operations: buffer memories (R60), output actions (R95), raising an error and
classifying (R13, R220, R224), entering and leaving a step (R233, R235), and RESET (R250). -/

namespace Sys2Proof.Machine

/-! ### Cells of a buffer memory -/

/-- The byte at a cell, if it was ever written. -/
def Memory.read : Memory → Nat → Option Byte
  | [], _ => none
  | (k, v) :: m, a => if k = a then some v else Memory.read m a

/-- Writing one cell keeps the addresses strictly rising. -/
def Memory.write : Memory → Nat → Byte → Memory
  | [], a, v => [(a, v)]
  | (k, u) :: m, a, v =>
    if a < k then (a, v) :: (k, u) :: m
    else if a = k then (a, v) :: m
    else (k, u) :: Memory.write m a v

/-- Writing consecutive cells from `a` on. -/
def Memory.writeBytes : Memory → Nat → Bytes → Memory
  | m, _, [] => m
  | m, a, v :: vs => Memory.writeBytes (Memory.write m a v) (a + 1) vs

/-- The canonical form: addresses strictly rising. An unlisted cell reads as no value, and no listed cell
does, so equal memories are equal lists. -/
abbrev Memory.wf (m : Memory) : Prop := (m.map Prod.fst).Pairwise (· < ·)

/-! ### Slots (R60) -/

def State.mem (s : State) : Space → Memory
  | .outbox => s.outbox
  | .reassembly => s.reassembly

def State.setMem (s : State) (sp : Space) (m : Memory) : State :=
  match sp with
  | .outbox => { s with outbox := m }
  | .reassembly => { s with reassembly := m }

/-- One byte of a buffer; one that nothing has written since reset is a free value (log 5). -/
def State.byteAt (s : State) (sp : Space) (a : Nat) : Byte :=
  ((s.mem sp).read a).getD (Config.freeByte s.epoch sp a)

/-- `MemRead(space, i)`: the `FIXED_LEN` bytes of slot `i`, byte 0 first (R60). -/
def State.memRead (s : State) (sp : Space) (i : Nat) : Bytes :=
  (List.range s.cfg.fixedLen).map fun k => s.byteAt sp (i * s.cfg.fixedLen + k)

/-- `MemWrite(space, i, p)`: the bytes of slot `i` become `p` (R60). -/
def State.memWrite (s : State) (sp : Space) (i : Nat) (p : Bytes) : State :=
  s.setMem sp ((s.mem sp).writeBytes (i * s.cfg.fixedLen) p)

/-! ### Outputs and errors -/

/-- `emit A` (R13). -/
def State.emit (s : State) (a : Action) : State := { s with actions := s.actions ++ [a] }

/-- `class <- c` (R220). -/
def State.classify (s : State) (c : FrameClass) : State := { s with cls := c }

/-- The value an operation returns (log 3). -/
def State.answer (s : State) (r : Result) : State := { s with result := r }

/-- `raise ERR.x`, the whole of taking an exception on this machine: the sticky bit is set and the handler
goes on; nothing is saved and control goes nowhere else (R13, R224, R233). -/
def State.raise (s : State) (b : ErrBit) : State := { s with err := s.err ||| (1#4 <<< b.index) }

/-! ### A step's entry and return -/

/-- Accepting an input saves nothing and changes no mode (R233): the stream moves on, the phase is RUN
(R38), the output list is empty and `class` is NONE (R201). -/
def State.beginStep (s : State) (rest : List Input) : State :=
  { s with inputs := rest, phase := .run, actions := [], cls := .none }

/-- The return from a handler: ADMISSION runs and the block waits for the next event; nothing is restored
(R235). -/
def State.finishStep (s : State) : State := { s.admission with phase := .wait }

/-- The return from a handler, for what `exec` answers. -/
def finishOutcome : Host.Outcome State Fault Refusal → Host.Outcome State Fault Refusal
  | .next s => .next s.finishStep
  | .fault r => .fault r
  | .refused r => .refused r

/-- Waiting: no event is there to process and nothing is emitted (R38; log 2). -/
def State.idle (s : State) : State := { s with actions := [] }

/-- RESET (R250): every piece of state at the value of R41, no action. What R41 leaves unspecified (the
buffers and the delays) is free from here on (logs 5, 6, 8, 15). The parameters and the outside's stream
are not the block's to reset. -/
def State.applyReset (s : State) : State :=
  { s with
    ackExpected := 0, nextToSend := 0, bufferedCount := 0, outbox := [],
    expected := 0, tooFar := s.cfg.w % s.cfg.r, arrived := List.replicate s.cfg.w false,
    reassembly := [],
    rtArmed := List.replicate s.cfg.w false,
    rtDelay := (List.range s.cfg.w).map (Config.freeRtDelay (s.epoch + 1)),
    ackArmed := false, ackDelay := Config.freeAckDelay (s.epoch + 1),
    nakSuppressed := false, chanReady := false, admEnable := false, err := 0#4, phase := .wait,
    actions := [], cls := .none, result := .none, epoch := s.epoch + 1 }

end Sys2Proof.Machine
end

