-- ==== Sys2Proof/Machine/Codec.lean ====
section
/-! DEFINITION. ENCODE and DECODE as operations of their own: pure functions of their operands and the
configuration, "No state" (R110); they return a value (log 3). -/

namespace Sys2Proof.Machine

/-- ENCODE (R111). -/
def execEncode (k : FrameKind) (a q : Nat) (p : Bytes) (s : State) : Host.Outcome State Fault Refusal :=
  .next (s.answer (.bytes (encodeFrame s.cfg (.ofOperands k a q p))))

/-- DECODE (R115). -/
def execDecode (b : Bytes) (s : State) : Host.Outcome State Fault Refusal :=
  .next (s.answer (.frame (decodeFrame s.cfg b)))

end Sys2Proof.Machine
end

