-- ==== Sys2Proof/Machine/Timer.lean ====
section
/-! DEFINITION. The Timer Set (spec/42_timer_set.md): ARM_RT, CANCEL_RT, ARM_ACK, CANCEL_ACK, and the two
one-shot expiries. -/

namespace Sys2Proof.Machine

/-- ARM_RT (R140): the entry is replaced and the action emitted even if it was armed (R144). -/
def State.armRt (s : State) (q d : Nat) : State :=
  { s with
    rtArmed := s.rtArmed.set (slot s.cfg q) true,
    rtDelay := s.rtDelay.set (slot s.cfg q) d }.emit (.armRt q d)

/-- The entry of `q` is disarmed with no action (R141, R145). -/
def State.disarmRt (s : State) (q : Nat) : State :=
  { s with rtArmed := s.rtArmed.set (slot s.cfg q) false }

/-- CANCEL_RT (R141): the action only if the entry was armed. -/
def State.cancelRt (s : State) (q : Nat) : State :=
  (if s.armedAt q then s.emit (.cancelRt q) else s).disarmRt q

/-- ARM_ACK (R142). -/
def State.armAck (s : State) (d : Nat) : State :=
  { s with ackArmed := true, ackDelay := d }.emit (.armAck d)

/-- The deferred-acknowledgment entry is disarmed with no action (R143, R146). -/
def State.disarmAck (s : State) : State := { s with ackArmed := false }

/-- CANCEL_ACK (R143): the action only if it was armed. -/
def State.cancelAck (s : State) : State :=
  (if s.ackArmed then s.emit .cancelAck else s).disarmAck

/-- ARM_RT as an operation of its own (R140). -/
def execArmRt (q d : Nat) (s : State) : Host.Outcome State Fault Refusal := .next (s.armRt q d)

/-- CANCEL_RT as an operation of its own (R141). -/
def execCancelRt (q : Nat) (s : State) : Host.Outcome State Fault Refusal := .next (s.cancelRt q)

/-- ARM_ACK as an operation of its own (R142). -/
def execArmAck (d : Nat) (s : State) : Host.Outcome State Fault Refusal := .next (s.armAck d)

/-- CANCEL_ACK as an operation of its own (R143). -/
def execCancelAck (s : State) : Host.Outcome State Fault Refusal := .next s.cancelAck

end Sys2Proof.Machine
end

