-- ==== Sys2Proof/Machine/Sender.lean ====
section
/-! DEFINITION. The Sender Window (spec/43_sender_window.md): SUBMIT, TRANSMIT, RESEND, ACK_THROUGH, NAK_RESEND. -/

namespace Sys2Proof.Machine

/-- SUBMIT (R155): the packet goes to the slot of `next_to_send`, the count and the upper edge advance. The
sequence assigned is the old `next_to_send`. -/
def State.submit (s : State) (p : Bytes) : State :=
  { s.memWrite .outbox (slot s.cfg s.nextToSend) p with
    bufferedCount := s.bufferedCount + 1,
    nextToSend := inc s.cfg s.nextToSend }

/-- The frame TRANSMIT builds: it carries `ackval()` as it is now (R157). -/
def State.frameOf (s : State) (k : FrameKind) (q : Nat) : Frame :=
  match k with
  | .data => .data s.ackval q (s.memRead .outbox (slot s.cfg q))
  | .ack => .ack s.ackval
  | .nak => .nak s.ackval

/-- TRANSMIT (R157). `q` is looked at for DATA only. It is not gated by `chan_ready`. -/
def State.transmit (s : State) (k : FrameKind) (q : Nat) : State :=
  let t := ((s.emit (.tx (encodeFrame s.cfg (s.frameOf k q)))).noteTransmission).cancelAck
  match k with
  | .data => t
  | .ack => t
  | .nak => t.suppressNak

/-- RESEND (R158), the first transmission too. -/
def State.resend (s : State) (q : Nat) : State := (s.transmit .data q).armRt q s.cfg.tData

/-- One retirement of ACK_THROUGH: the body of its loop (R160). -/
def State.retire (s : State) : State :=
  { s.cancelRt s.ackExpected with
    bufferedCount := s.bufferedCount - 1,
    ackExpected := inc s.cfg s.ackExpected }

/-- The loop of ACK_THROUGH, at most `fuel` times round (R160; log 12). -/
def State.retireWhile : Nat → Nat → State → State
  | 0, _, s => s
  | fuel + 1, a, s => if s.outstanding a then State.retireWhile fuel a s.retire else s

/-- ACK_THROUGH (R160). On ring values the loop ends within `R` rounds (log 12). -/
def State.ackThrough (s : State) (a : Nat) : State := State.retireWhile s.cfg.r a s

/-- NAK_RESEND (R161): the successor of the NAK's `ack` field, if outstanding. -/
def State.nakResend (s : State) (a : Nat) : State :=
  if s.outstanding (inc s.cfg a) then s.resend (inc s.cfg a) else s

/-- SUBMIT as an operation of its own; it returns the sequence assigned (R155). Its caller checks admission,
it does not (log 11). -/
def execSubmit (p : Bytes) (s : State) : Host.Outcome State Fault Refusal :=
  .next ((s.submit p).answer (.ring s.nextToSend))

/-- TRANSMIT as an operation of its own (R157). -/
def execTransmit (k : FrameKind) (q : Nat) (s : State) : Host.Outcome State Fault Refusal :=
  .next (s.transmit k q)

/-- RESEND as an operation of its own (R158). -/
def execResend (q : Nat) (s : State) : Host.Outcome State Fault Refusal := .next (s.resend q)

/-- ACK_THROUGH as an operation of its own (R160). -/
def execAckThrough (a : Nat) (s : State) : Host.Outcome State Fault Refusal := .next (s.ackThrough a)

/-- NAK_RESEND as an operation of its own (R161). -/
def execNakResend (a : Nat) (s : State) : Host.Outcome State Fault Refusal := .next (s.nakResend a)

end Sys2Proof.Machine
end

