-- ==== Sys2Proof/Machine/Receiver.lean ====
section
/-! DEFINITION. The Receiver Window (spec/44_receiver_window.md): ON_DATA, SEND_ACK, SEND_NAK. -/

namespace Sys2Proof.Machine

/-- The store step of ON_DATA (R170). -/
def State.store (s : State) (q : Nat) (p : Bytes) : State :=
  { s.memWrite .reassembly (slot s.cfg q) p with arrived := s.arrived.set (slot s.cfg q) true }

/-- One round of the drain loop of ON_DATA, less the payload it hands out (R170). -/
def State.advance (s : State) : State :=
  { s with
    arrived := s.arrived.set (slot s.cfg s.expected) false,
    expected := inc s.cfg s.expected,
    tooFar := inc s.cfg s.tooFar }

/-- The drain loop of ON_DATA, at most `fuel` times round: the state after it and the payloads handed out,
in order (R170; log 12). -/
def State.drain : Nat → State → State × List Bytes
  | 0, s => (s, [])
  | fuel + 1, s =>
    if s.arrivedAt s.expected then
      let r := State.drain fuel s.advance
      (r.1, s.memRead .reassembly (slot s.cfg s.expected) :: r.2)
    else (s, [])

/-- What ON_DATA leaves and returns (R170). -/
structure OnData where
  state : State
  out   : List Bytes
  cls   : FrameClass
  deriving DecidableEq, Repr

/-- ON_DATA (R170): window membership is tested before duplication (R231). -/
def State.onData (s : State) (q : Nat) (p : Bytes) : OnData :=
  if s.inWindow q then
    if s.arrivedAt q then { state := s, out := [], cls := .dataDup }
    else
      let r := State.drain s.cfg.w (s.store q p)
      { state := r.1, out := r.2, cls := .dataAccepted }
  else { state := s, out := [], cls := .dataOow }

/-- SEND_ACK (R171). -/
def State.sendAck (s : State) : State := s.transmit .ack 0

/-- SEND_NAK (R172). -/
def State.sendNak (s : State) : State := s.transmit .nak 0

/-- ON_DATA as an operation of its own; it returns the payloads and the class (R170). -/
def execOnData (q : Nat) (p : Bytes) (s : State) : Host.Outcome State Fault Refusal :=
  .next ((s.onData q p).state.answer (.delivered (s.onData q p).out (s.onData q p).cls))

/-- SEND_ACK as an operation of its own (R171). -/
def execSendAck (s : State) : Host.Outcome State Fault Refusal := .next s.sendAck

/-- SEND_NAK as an operation of its own (R172). -/
def execSendNak (s : State) : Host.Outcome State Fault Refusal := .next s.sendNak

end Sys2Proof.Machine
end

