-- ==== Sys2Proof/Machine/Engine.lean ====
section
/-! DEFINITION. The Protocol Engine (spec/45_engine_events.md): the five branches of FRAME_RECEIVED, the five
event handlers, STEP and ADMISSION. -/

namespace Sys2Proof.Machine

/-! ### The branches of FRAME_RECEIVED -/

/-- The NAK-or-defer decision of a corrupt buffer, on its claimed sequence (R184, R120). -/
def State.rxCorrupt (s : State) (claimed : Option Byte) : State :=
  let t := s.classify .corrupt
  if !t.nakSuppressed || t.claims claimed then t.sendNak else t.armAck t.cfg.tAck

/-- RX_MALFORMED (R185). -/
def State.rxMalformed (s : State) : State := (s.classify .malformed).raise .malformed

/-- The NAK-or-defer decision of a DATA frame, made before ON_DATA (R186, R193). -/
def State.nakOrDefer (s : State) (q : Nat) : State :=
  if !(decide (q = s.expected)) && !s.nakSuppressed then s.sendNak else s.armAck s.cfg.tAck

/-- One delivery: DELIVER, suppression ends, the deferral window restarts (R186). -/
def State.deliver (s : State) (x : Bytes) : State :=
  ((s.emit (.deliver x)).allowNak).armAck s.cfg.tAck

/-- RX_DATA (R186); ACK_THROUGH runs last (R189). -/
def State.rxData (s : State) (a q : Nat) (p : Bytes) : State :=
  let r := (s.nakOrDefer q).onData q p
  (r.out.foldl State.deliver (r.state.classify r.cls)).ackThrough a

/-- RX_NAK (R187): NAK_RESEND, then ACK_THROUGH (R189). -/
def State.rxNak (s : State) (a : Nat) : State := ((s.classify .nak).nakResend a).ackThrough a

/-- RX_ACK (R188). -/
def State.rxAck (s : State) (a : Nat) : State := (s.classify .ack).ackThrough a

/-! ### The event handlers -/

/-- UPPER_READY (R180): a packet of the wrong length, then closed admission, then the submission. -/
def State.upperReady (s : State) (p : Bytes) : State :=
  if p.length ≠ s.cfg.fixedLen then s.raise .evcode
  else if !s.admissible then s.raise .adm
  else (s.submit p).resend s.nextToSend

/-- FRAME_RECEIVED (R183): the branch of what DECODE makes of the buffer. -/
def State.frameReceived (s : State) (b : Bytes) : State :=
  match decodeFrame s.cfg b with
  | .corruptFrame => s.rxCorrupt (claimedSeq b)
  | .malformedFrame => s.rxMalformed
  | .data a q p => s.rxData a q p
  | .nak a => s.rxNak a
  | .ack a => s.rxAck a

/-- A genuine retransmission expiry, the three tests of R145 and R190 in their order. -/
def State.genuineRetx (s : State) (q : Nat) : Bool :=
  decide (q ≤ s.cfg.maxSeq) && s.outstanding q && s.armedAt q

/-- The stagger loop of RETX_TIMEOUT over the forward distances `ds`; `k` timers were re-armed so far, so
the next gets `T_LONG + k * T_STEP` (R190, R191). -/
def State.stagger (q : Nat) : List Nat → Nat → State → State
  | [], _, s => s
  | d :: ds, k, s =>
    let t := (q + d) % s.cfg.r
    if s.outstanding t then
      State.stagger q ds (k + 1) (s.armRt t (s.cfg.tLong + k * s.cfg.tStep))
    else State.stagger q ds k s

/-- The successor's timer is re-armed with `T_SHORT` if the successor is outstanding (R190). -/
def State.armSuccessor (s : State) (q : Nat) : State :=
  if s.outstanding (inc s.cfg q) then s.armRt (inc s.cfg q) s.cfg.tShort else s

/-- RETX_TIMEOUT (R190): expiry is one-shot, then RESEND, the successor, and the stagger over the forward
distances 2 to R-1 (R191). -/
def State.retxTimeout (s : State) (q : Nat) : State :=
  if s.genuineRetx q then
    State.stagger q (List.range' 2 (s.cfg.r - 2)) 0 (((s.disarmRt q).resend q).armSuccessor q)
  else s.raise .spurious

/-- ACK_TIMEOUT (R192): expiry is one-shot, then SEND_ACK (R146). -/
def State.ackTimeout (s : State) : State :=
  if s.ackArmed then s.disarmAck.sendAck else s.raise .spurious

/-- A reserved event code: `ERR.EVCODE` and nothing else (R92). -/
def State.reservedEvent (s : State) : State := s.raise .evcode

/-! ### STEP -/

/-- The handler STEP selects by the code (R201). -/
def State.handle (s : State) (e : Event) : State :=
  match e.code.toNat with
  | 1 => s.upperReady e.data
  | 2 => s.noteChannelReady
  | 3 => s.frameReceived e.data
  | 4 => s.retxTimeout e.seq.toNat
  | 5 => s.ackTimeout
  | _ => s.reservedEvent

/-- STEP (R201): `class <- NONE`, the handler, ADMISSION. -/
def State.stepEvent (s : State) (e : Event) : State := ((s.classify .none).handle e).admission

/-! ### The engine's operations, one meaning each -/

/-- RX_CORRUPT as an operation of its own (R184). -/
def execRxCorrupt (b : Bytes) (s : State) : Host.Outcome State Fault Refusal :=
  .next (s.rxCorrupt (claimedSeq b))

/-- RX_MALFORMED as an operation of its own (R185). -/
def execRxMalformed (s : State) : Host.Outcome State Fault Refusal := .next s.rxMalformed

/-- RX_DATA as an operation of its own (R186). -/
def execRxData (a q : Nat) (p : Bytes) (s : State) : Host.Outcome State Fault Refusal :=
  .next (s.rxData a q p)

/-- RX_NAK as an operation of its own (R187). -/
def execRxNak (a : Nat) (s : State) : Host.Outcome State Fault Refusal := .next (s.rxNak a)

/-- RX_ACK as an operation of its own (R188). -/
def execRxAck (a : Nat) (s : State) : Host.Outcome State Fault Refusal := .next (s.rxAck a)

/-- ADMISSION as an operation of its own (R200). -/
def execAdmission (s : State) : Host.Outcome State Fault Refusal := .next s.admission

/-- STEP as an operation of its own (R201). -/
def execStep (e : Event) (s : State) : Host.Outcome State Fault Refusal := .next (s.stepEvent e)

end Sys2Proof.Machine
end

