-- ==== Sys2Proof/Machine/Events.lean ====
section
/-! DEFINITION. The events of the descriptor (R90, R92), one meaning each: the handler of R201, without the
ADMISSION that the step runs after it. -/

namespace Sys2Proof.Machine

/-- UPPER_READY (R180). -/
def execUpperReady (p : Bytes) (s : State) : Host.Outcome State Fault Refusal := .next (s.upperReady p)

/-- CHANNEL_READY (R182). -/
def execChannelReady (s : State) : Host.Outcome State Fault Refusal := .next s.noteChannelReady

/-- FRAME_RECEIVED (R183). -/
def execFrameReceived (b : Bytes) (s : State) : Host.Outcome State Fault Refusal :=
  .next (s.frameReceived b)

/-- RETX_TIMEOUT (R190); the descriptor's `seq` is an unsigned byte (R90). -/
def execRetxTimeout (q : Byte) (s : State) : Host.Outcome State Fault Refusal :=
  .next (s.retxTimeout q.toNat)

/-- ACK_TIMEOUT (R192). -/
def execAckTimeout (s : State) : Host.Outcome State Fault Refusal := .next s.ackTimeout

/-- Event code 0 (R92). -/
def execReservedEvent0 (s : State) : Host.Outcome State Fault Refusal := .next s.reservedEvent

/-- Event code 6 (R92). -/
def execReservedEvent6 (s : State) : Host.Outcome State Fault Refusal := .next s.reservedEvent

/-- Event code 7 (R92). -/
def execReservedEvent7 (s : State) : Host.Outcome State Fault Refusal := .next s.reservedEvent

end Sys2Proof.Machine
end

