-- ==== Sys2Proof/Machine/Ring.lean ====
section
/-! DEFINITION. INC, SLOT, BETWEEN and ACKVAL as operations of their own: they write no register and return a
value (spec/41_ring_arithmetic.md; log 3). -/

namespace Sys2Proof.Machine

/-- INC (R130). -/
def execInc (q : Nat) (s : State) : Host.Outcome State Fault Refusal :=
  .next (s.answer (.ring (inc s.cfg q)))

/-- SLOT (R131). -/
def execSlot (q : Nat) (s : State) : Host.Outcome State Fault Refusal :=
  .next (s.answer (.ring (slot s.cfg q)))

/-- BETWEEN (R132). -/
def execBetween (a b c : Nat) (s : State) : Host.Outcome State Fault Refusal :=
  .next (s.answer (.truth (between a b c)))

/-- ACKVAL (R134). -/
def execAckval (s : State) : Host.Outcome State Fault Refusal :=
  .next (s.answer (.ring s.ackval))

end Sys2Proof.Machine
end

