-- ==== Sys2Proof/Machine/System.lean ====
section
/-! DEFINITION. RESET (R250). -/

namespace Sys2Proof.Machine

/-- RESET (R250). -/
def execReset (s : State) : Host.Outcome State Fault Refusal := .next s.applyReset

end Sys2Proof.Machine
end

