-- ==== Sys2Proof/Machine/Wire.lean ====
section
/-! DEFINITION. The wire rows of the opcode table, one meaning each: what the engine does on receiving a buffer
that DECODE found to be that row (R100, R115, R183). -/

namespace Sys2Proof.Machine

/-- A valid DATA frame was received (R186). -/
def execData (a q : Nat) (p : Bytes) (s : State) : Host.Outcome State Fault Refusal :=
  .next (s.rxData a q p)

/-- A valid ACK frame was received (R188). -/
def execAck (a : Nat) (s : State) : Host.Outcome State Fault Refusal := .next (s.rxAck a)

/-- A valid NAK frame was received (R187). -/
def execNak (a : Nat) (s : State) : Host.Outcome State Fault Refusal := .next (s.rxNak a)

/-- A malformed buffer was received (R185). -/
def execMalformed (s : State) : Host.Outcome State Fault Refusal := .next s.rxMalformed

/-- A corrupt buffer was received, with its claimed sequence (R184). -/
def execCorrupt (claimed : Option Byte) (s : State) : Host.Outcome State Fault Refusal :=
  .next (s.rxCorrupt claimed)

end Sys2Proof.Machine
end

