-- ==== Sys2Proof/Machine/Dispatch.lean ====
section
/-! DEFINITION. One arm per row of the opcode table: its meaning (R100). -/

namespace Sys2Proof.Machine

def exec (i : Instr) (s : State) : Host.Outcome State Fault Refusal :=
  match i with
  | .data a q p => Sys2Proof.Machine.execData a q p s
  | .ack a => Sys2Proof.Machine.execAck a s
  | .nak a => Sys2Proof.Machine.execNak a s
  | .malformed => Sys2Proof.Machine.execMalformed s
  | .corrupt c => Sys2Proof.Machine.execCorrupt c s
  | .upperReady p => Sys2Proof.Machine.execUpperReady p s
  | .channelReady => Sys2Proof.Machine.execChannelReady s
  | .frameReceived b => Sys2Proof.Machine.execFrameReceived b s
  | .retxTimeout q => Sys2Proof.Machine.execRetxTimeout q s
  | .ackTimeout => Sys2Proof.Machine.execAckTimeout s
  | .reservedEvent0 => Sys2Proof.Machine.execReservedEvent0 s
  | .reservedEvent6 => Sys2Proof.Machine.execReservedEvent6 s
  | .reservedEvent7 => Sys2Proof.Machine.execReservedEvent7 s
  | .encode k a q p => Sys2Proof.Machine.execEncode k a q p s
  | .decode b => Sys2Proof.Machine.execDecode b s
  | .inc q => Sys2Proof.Machine.execInc q s
  | .slot q => Sys2Proof.Machine.execSlot q s
  | .between a b c => Sys2Proof.Machine.execBetween a b c s
  | .ackval => Sys2Proof.Machine.execAckval s
  | .armRt q d => Sys2Proof.Machine.execArmRt q d s
  | .cancelRt q => Sys2Proof.Machine.execCancelRt q s
  | .armAck d => Sys2Proof.Machine.execArmAck d s
  | .cancelAck => Sys2Proof.Machine.execCancelAck s
  | .submit p => Sys2Proof.Machine.execSubmit p s
  | .transmit k q => Sys2Proof.Machine.execTransmit k q s
  | .resend q => Sys2Proof.Machine.execResend q s
  | .ackThrough a => Sys2Proof.Machine.execAckThrough a s
  | .nakResend a => Sys2Proof.Machine.execNakResend a s
  | .onData q p => Sys2Proof.Machine.execOnData q p s
  | .sendAck => Sys2Proof.Machine.execSendAck s
  | .sendNak => Sys2Proof.Machine.execSendNak s
  | .rxCorrupt b => Sys2Proof.Machine.execRxCorrupt b s
  | .rxMalformed => Sys2Proof.Machine.execRxMalformed s
  | .rxData a q p => Sys2Proof.Machine.execRxData a q p s
  | .rxNak a => Sys2Proof.Machine.execRxNak a s
  | .rxAck a => Sys2Proof.Machine.execRxAck a s
  | .admission => Sys2Proof.Machine.execAdmission s
  | .step e => Sys2Proof.Machine.execStep e s
  | .reset => Sys2Proof.Machine.execReset s

end Sys2Proof.Machine
end

