-- ==== Sys2Proof/Machine/Fetch.lean ====
section
/-! DEFINITION. Taking the next input from the serialiser's stream, and placing a table word there (logs 2, 9). -/

namespace Sys2Proof.Machine

/-- What the block finds at a step boundary. -/
inductive Fetched where
  | idle                                        -- no event is presented: the block waits (R38)
  | refused (r : Refusal)
  | operation (i : Instr) (rest : List Input)
  deriving DecidableEq, Repr

/-- The oldest input, decoded; events are "handled strictly in delivery order" (R70, R230). -/
def State.fetch (s : State) : Fetched :=
  if s.cfg.legal then
    match s.inputs with
    | [] => .idle
    | x :: rest =>
      match decodeInput s.cfg x with
      | .ok i => .operation i rest
      | .error _ => .refused .unpresentableDescriptor
  else .refused .illegalConfiguration

/-- The state with an input put before all others. -/
def State.present (s : State) (x : Input) : State := { s with inputs := x :: s.inputs }

end Sys2Proof.Machine
end

