-- ==== Sys2Proof/Machine/Step.lean ====
section
/-! DEFINITION. One step of the block: the oldest input is decoded and processed to completion (R10, R201). -/

namespace Sys2Proof.Machine

/-- One step (R10): the entry (R233), the operation, the return with ADMISSION (R235). A block with no event
waits (R38). -/
def step (s : State) : Host.Outcome State Fault Refusal :=
  match s.fetch with
  | .idle => .next s.idle
  | .refused r => .refused r
  | .operation i rest => finishOutcome (exec i (s.beginStep rest))

/-- `s` with the input of a table word put where the next step takes it (log 9). -/
def State.withFetchWord (s : State) (nbits w : Nat) : State :=
  s.present (Input.ofTableWord s.cfg nbits w)

end Sys2Proof.Machine
end

