-- ==== Sys2Proof/Safety.lean ====
section
/-! DEFINITION. What a safe run is: the invariants the spec states of the engine between steps (R20 to R37),
the obligations of its environment (R147, R256), quiescence (R264), and what the spec calls unobservable. -/

namespace Sys2Proof.Machine

/-! ### Places on the ring -/

/-- The value `k` places ahead of `a` on the ring (R14). -/
def ahead (c : Config) (a k : Nat) : Nat := (a + k) % c.r

/-- The forward distance `(b - a) mod R` (R133). -/
def forward (c : Config) (a b : Nat) : Nat := (b + c.r - a) % c.r

/-! ### After reset -/

/-- The values of R41. The buffers' bytes and the delays are unspecified there. -/
structure State.AfterReset (s : State) : Prop where
  ack_expected    : s.ackExpected = 0
  next_to_send    : s.nextToSend = 0
  buffered_count  : s.bufferedCount = 0
  expected        : s.expected = 0
  too_far         : s.tooFar = s.cfg.w % s.cfg.r
  arrived         : s.arrived = List.replicate s.cfg.w false
  rt_armed        : s.rtArmed = List.replicate s.cfg.w false
  rt_delay        : s.rtDelay.length = s.cfg.w
  ack_armed       : s.ackArmed = false
  nak_suppressed  : s.nakSuppressed = false
  chan_ready      : s.chanReady = false
  adm_enable      : s.admEnable = false
  err             : s.err = 0#4
  phase           : s.phase = .wait
  no_action       : s.actions = []

/-! ### Invariants between steps -/

/-- The per-slot tables have `W` entries (R27, R35). -/
structure State.Shaped (s : State) : Prop where
  arrived_length : s.arrived.length = s.cfg.w
  armed_length   : s.rtArmed.length = s.cfg.w
  delay_length   : s.rtDelay.length = s.cfg.w

/-- The four edges are ring values (R20, R21, R25, R26). -/
structure State.RingRegs (s : State) : Prop where
  ack_expected : s.ackExpected ≤ s.cfg.maxSeq
  next_to_send : s.nextToSend ≤ s.cfg.maxSeq
  expected     : s.expected ≤ s.cfg.maxSeq
  too_far      : s.tooFar ≤ s.cfg.maxSeq

/-- The sender invariant (R24). -/
structure State.SenderInv (s : State) : Prop where
  count : s.bufferedCount = (s.nextToSend + s.cfg.r - s.ackExpected) % s.cfg.r
  bound : s.bufferedCount ≤ s.cfg.w

/-- The receiver invariants (R26, R28). That an arrived slot belongs to the window (R27) says nothing more:
the window has `W` consecutive values, so every slot does. -/
structure State.ReceiverInv (s : State) : Prop where
  too_far : s.tooFar = (s.expected + s.cfg.w) % s.cfg.r
  waiting : s.arrivedAt s.expected = false

/-- The timer invariant (R37): the armed entries are exactly the slots of the outstanding sequences. -/
def State.TimerInv (s : State) : Prop :=
  ∀ i < s.cfg.w, s.rtArmed.getD i false = true ↔
    ∃ q ≤ s.cfg.maxSeq, slot s.cfg q = i ∧ s.outstanding q = true

/-- The admission gate is a registered copy of its expression (R32). -/
def State.AdmissionInv (s : State) : Prop := s.admEnable = s.admissible

/-- Every byte of slot `i` was written since reset. -/
def State.written (s : State) (sp : Space) (i : Nat) : Prop :=
  ∀ k < s.cfg.fixedLen, ((s.mem sp).read (i * s.cfg.fixedLen + k)).isSome = true

/-- The buffers: canonical, no cell outside the `W` slots (R69), and every slot an operation may read is
written: those of outstanding sequences and those marked arrived (R23, R29). -/
structure State.BufferInv (s : State) : Prop where
  outbox_wf        : Memory.wf s.outbox
  reassembly_wf    : Memory.wf s.reassembly
  outbox_cells     : ∀ x ∈ s.outbox, x.1 < s.cfg.w * s.cfg.fixedLen
  reassembly_cells : ∀ x ∈ s.reassembly, x.1 < s.cfg.w * s.cfg.fixedLen
  outstanding      : ∀ q ≤ s.cfg.maxSeq, s.outstanding q = true → s.written .outbox (slot s.cfg q)
  arrived          : ∀ i < s.cfg.w, s.arrived.getD i false = true → s.written .reassembly i

/-- Everything the spec says holds of the engine between steps. -/
structure State.Inv (s : State) : Prop where
  legal     : s.cfg.legal = true
  shaped    : s.Shaped
  ring      : s.RingRegs
  sender    : s.SenderInv
  receiver  : s.ReceiverInv
  timers    : s.TimerInv
  admission : s.AdmissionInv
  buffers   : s.BufferInv
  phase     : s.phase = .wait

/-! ### The environment's obligations -/

/-- The obligations (a) to (d) of R256 on the next event: admission is open for UPPER_READY and the packet
has its length, a timeout is for an armed timer of an outstanding sequence, the code is one of the five,
and a received buffer is not one that only a peer of another configuration could send. -/
def State.honouredBy (s : State) (e : Event) : Bool :=
  match e.code.toNat with
  | 1 => s.admEnable && decide (e.data.length = s.cfg.fixedLen)
  | 2 => true
  | 3 => decide (decodeFrame s.cfg e.data ≠ .malformedFrame)
  | 4 => s.genuineRetx e.seq.toNat
  | 5 => s.ackArmed
  | _ => false

/-! ### Quiescence -/

/-- A quiescent engine (R264): nothing outstanding, no timer armed, nothing waiting to be delivered. -/
structure State.Quiescent (s : State) : Prop where
  nothing_outstanding : s.bufferedCount = 0
  no_timer            : ∀ x ∈ s.rtArmed, x = false
  no_deferred_ack     : s.ackArmed = false
  nothing_waiting     : ∀ x ∈ s.arrived, x = false

/-! ### What an observer of the outputs counts -/

def Action.isTx : Action → Bool
  | .tx _ => true
  | .deliver _ => false
  | .armRt _ _ => false
  | .cancelRt _ => false
  | .armAck _ => false
  | .cancelAck => false

def Action.isDeliver : Action → Bool
  | .tx _ => false
  | .deliver _ => true
  | .armRt _ _ => false
  | .cancelRt _ => false
  | .armAck _ => false
  | .cancelAck => false

/-- The frame an action hands to the channel. -/
def Action.frame : Action → Option Bytes
  | .tx b => some b
  | .deliver _ => none
  | .armRt _ _ => none
  | .cancelRt _ => none
  | .armAck _ => none
  | .cancelAck => none

/-- The payload an action hands to the upper layer. -/
def Action.payload : Action → Option Bytes
  | .tx _ => none
  | .deliver p => some p
  | .armRt _ _ => none
  | .cancelRt _ => none
  | .armAck _ => none
  | .cancelAck => none

/-- An action with its delay left out. -/
def Action.forgetDelay : Action → Action
  | .tx b => .tx b
  | .deliver p => .deliver p
  | .armRt q _ => .armRt q 0
  | .cancelRt q => .cancelRt q
  | .armAck _ => .armAck 0
  | .cancelAck => .cancelAck

/-- A state with every delay left out: the parameters `T_*`, the timer entries' delays and the delays in
the actions (R36, R262). -/
def State.forgetDelays (s : State) : State :=
  { s with
    cfg := { s.cfg with tData := 0, tAck := 0, tShort := 0, tLong := 0, tStep := 0 },
    rtDelay := s.rtDelay.map (fun _ => 0),
    ackDelay := 0,
    actions := s.actions.map Action.forgetDelay }

end Sys2Proof.Machine
end

