-- ==== Sys2Proof/Machine/Link.lean ====
section
/-! DEFINITION. A link: two engines, a channel each way, and what each upper layer has still to offer, handed over
and was handed (spec/70_reset_and_hazards.md R263; log 17). The moves are the environment's; each engine
move is one `step` of that engine. How a link starts (R252) and when a run of it ends (R264) stand last. -/

namespace Sys2Proof.Machine

/-- The reordering discipline of the channels (R263): in the order sent, or a frame may overtake at most
`n` older ones (log 17). -/
inductive ChanOrder where
  | fifo
  | bounded (n : Nat)
  deriving DecidableEq, Repr

/-- Which frame in flight, counted from the oldest, the channel may present next. -/
def ChanOrder.allows : ChanOrder → Nat → Bool
  | .fifo, k => decide (k = 0)
  | .bounded n, k => decide (k ≤ n)

/-- One end of a link: its engine, the frames in flight towards it (oldest first), the packets its upper
layer has still to offer and has handed over, and the payloads its upper layer was handed, each in order. -/
structure End where
  engine    : State
  inbound   : List Bytes
  waiting   : List Bytes
  submitted : List Bytes
  delivered : List Bytes
  deriving DecidableEq, Repr

structure Link where
  order : ChanOrder
  a     : End
  b     : End
  deriving DecidableEq, Repr

inductive Side where
  | a
  | b
  deriving DecidableEq, Repr

/-- The moves of the environment (R263, R226): the channel presents, loses or corrupts the k-th frame in
flight towards a side or announces that it is ready, the upper layer offers its next packet, a timer
expires. -/
inductive LinkMove where
  | present (d : Side) (k : Nat)
  | lose (d : Side) (k : Nat)
  | corrupt (d : Side) (k : Nat) (b : Bytes)
  | ready (d : Side)
  | offer (d : Side)
  | retxExpiry (d : Side) (q : Byte)
  | ackExpiry (d : Side)
  deriving DecidableEq, Repr

def Link.near (l : Link) : Side → End
  | .a => l.a
  | .b => l.b

def Link.far (l : Link) : Side → End
  | .a => l.b
  | .b => l.a

/-- The link with the near and the far end of a side replaced. -/
def Link.withEnds (l : Link) (d : Side) (near far : End) : Link :=
  match d with
  | .a => { l with a := near, b := far }
  | .b => { l with a := far, b := near }

/-- One event presented to one engine, alone in its stream: between moves no event is pending (log 17). -/
def State.react (s : State) (e : Event) : Host.Outcome State Fault Refusal :=
  step { s with inputs := [.event e] }

/-- One engine processes one event: its frames join those in flight to the other end, its deliveries its
own log. -/
def Link.engineStep (l : Link) (d : Side) (e : Event) : Option Link :=
  match (l.near d).engine.react e with
  | .next t =>
    some (l.withEnds d
      { l.near d with
        engine := t,
        delivered := (l.near d).delivered ++ t.actions.filterMap Action.payload }
      { l.far d with inbound := (l.far d).inbound ++ t.actions.filterMap Action.frame })
  | .fault _ => none
  | .refused _ => none

/-- The link with the frames in flight towards a side replaced. -/
def Link.setInbound (l : Link) (d : Side) (fs : List Bytes) : Link :=
  l.withEnds d { l.near d with inbound := fs } (l.far d)

/-- The link after a side's upper layer handed over the packet `p`, the first of those it had to offer. -/
def Link.handOver (l : Link) (d : Side) (p : Bytes) (rest : List Bytes) : Link :=
  l.withEnds d
    { l.near d with waiting := rest, submitted := (l.near d).submitted ++ [p] } (l.far d)

/-- One move of the environment, none where the environment's contract (R147, R256) or the channel model
(R263) does not allow it. A corruption yields only buffers DECODE finds corrupt, and no longer than a
receive buffer. -/
def Link.move (l : Link) : LinkMove → Option Link
  | .present d k =>
    match (l.near d).inbound[k]? with
    | some f =>
      if l.order.allows k then
        (l.setInbound d ((l.near d).inbound.eraseIdx k)).engineStep d
          { code := 3#3, seq := 0#8, data := f }
      else none
    | none => none
  | .lose d k =>
    if k < (l.near d).inbound.length then
      some (l.setInbound d ((l.near d).inbound.eraseIdx k))
    else none
  | .corrupt d k b =>
    if k < (l.near d).inbound.length ∧ decodeFrame (l.near d).engine.cfg b = .corruptFrame ∧
        (l.near d).engine.cfg.buffer b = true then
      some (l.setInbound d ((l.near d).inbound.set k b))
    else none
  | .ready d => l.engineStep d { code := 2#3, seq := 0#8, data := [] }
  | .offer d =>
    match (l.near d).waiting with
    | p :: rest =>
      if (l.near d).engine.admEnable && (l.near d).engine.cfg.packet p then
        (l.handOver d p rest).engineStep d { code := 1#3, seq := 0#8, data := p }
      else none
    | [] => none
  | .retxExpiry d q =>
    if (l.near d).engine.genuineRetx q.toNat then
      l.engineStep d { code := 4#3, seq := q, data := [] }
    else none
  | .ackExpiry d =>
    if (l.near d).engine.ackArmed then l.engineStep d { code := 5#3, seq := 0#8, data := [] }
    else none

/-- A run of the link: every move is allowed. -/
def Link.run (l : Link) : List LinkMove → Option Link
  | [] => some l
  | m :: ms =>
    match l.move m with
    | some l' => l'.run ms
    | none => none

/-! ### The start of a link -/

/-- What the two ends of a link must share (R8, R252): `MAX_SEQ` and with it `R` and `W`, `FIXED_LEN`, and `CK`
as a function. `RX_MAX` and the delays are each end's own. The trailer byte order is one for all (R86). -/
structure Peers (c c' : Config) : Prop where
  max_seq   : c.maxSeq = c'.maxSeq
  fixed_len : c.fixedLen = c'.fixedLen
  ck        : ∀ b, c.check b = c'.check b

/-- One end at its start: a legal configuration, the engine after reset, no event presented, no frame in
flight towards it, nothing handed over in either direction. The packets its upper layer has to offer are
any, and so is what R41 leaves unspecified in the engine: the bytes of its buffers and its delays. -/
structure End.Fresh (e : End) : Prop where
  legal      : e.engine.cfg.legal = true
  reset      : e.engine.AfterReset
  no_event   : e.engine.inputs = []
  in_flight  : e.inbound = []
  handed     : e.submitted = [] ∧ e.delivered = []

/-- A link as the start-up obligations ask (R252): two fresh ends with configurations that go together. The
unspecified contents of one end have nothing to do with those of the other (R41, R245). -/
structure Link.Start (l : Link) : Prop where
  ends  : l.a.Fresh ∧ l.b.Fresh
  peers : Peers l.a.engine.cfg l.b.engine.cfg

/-- An engine of a configuration right after its reset number `n + 1`, nothing presented to it. Its buffers and
delays are the free values of that number (logs 5, 6, 8), which for another number are others. -/
def State.fresh (c : Config) (n : Nat) : State :=
  { State.reset with cfg := c, epoch := n }.applyReset

/-- A fresh end with the packets `ps` to offer. -/
def End.start (c : Config) (n : Nat) (ps : List Bytes) : End where
  engine    := State.fresh c n
  inbound   := []
  waiting   := ps
  submitted := []
  delivered := []

/-! ### The end of a run -/

/-- A quiescent link (R264): both engines are, no frame is in flight in either channel, and no event is
pending in either serialiser. -/
structure Link.Quiescent (l : Link) : Prop where
  engines   : l.a.engine.Quiescent ∧ l.b.engine.Quiescent
  in_flight : l.a.inbound = [] ∧ l.b.inbound = []
  no_event  : l.a.engine.inputs = [] ∧ l.b.engine.inputs = []

/-- A finite run has ended (R264): the upper layers have no more packets to offer and the link is quiescent.
That everything was then delivered is a claim, not part of this. -/
structure Link.Ended (l : Link) : Prop where
  nothing_to_offer : l.a.waiting = [] ∧ l.b.waiting = []
  quiescent        : l.Quiescent

end Sys2Proof.Machine
end

