-- ==== Sys2Proof/Certificates/Slice0/Obligations.lean ====
section
/-! DEFINITION. The statements about the engine, each from the rule its docstring names. A statement marked
"the spec's inference" or "log n" rests on what the spec marks as derived, or on a choice of the model. -/

open Sys2Proof Sys2Proof.Machine

/-! ### Encodings and the codec -/

/-- Decoding the encoding of a well-formed operation gives it back: the three frames with every operand at
every value the wire admits, the eight event codes and RESET (the spec's inference, 40_frame_codec "Round
trip"; the event part is the descriptor table of 30_encoding). For every checksum of every legal
configuration. -/
def Obligations.DecodeEncodeAgree : Prop :=
  ∀ (c : Config) (i : Instr) (w : Encoded), c.legal = true → i.wellFormed c = true →
    encode c i = some w → decode c w = .ok i

/-- The zero-residue law: "for every byte string `h`, `CK(h ++ trailer(h)) = 0`" (40_frame_codec section 1),
of the reference checksum and of every other. -/
def Obligations.ChecksumHasZeroResidue : Prop :=
  ∀ (k : Checksum) (h : Bytes),
    k.check (h ++ [(k.check h).extractLsb' 0 8, (k.check h).extractLsb' 8 8,
      (k.check h).extractLsb' 16 8, (k.check h).extractLsb' 24 8]) = 0#32

/-- ENCODE (R111, R86): the header bytes of the kind, then the check value of the header least significant
byte first; `seq` and `payload` are ignored for ACK and NAK; nothing but the returned value changes. -/
def Obligations.EncodeBuildsWireFrame : Prop :=
  ∀ (s : State) (a q : Nat) (p : Bytes), a ≤ s.cfg.maxSeq →
    let frame (h : Bytes) : Bytes := h ++
      [(s.cfg.check h).extractLsb' 0 8, (s.cfg.check h).extractLsb' 8 8,
       (s.cfg.check h).extractLsb' 16 8, (s.cfg.check h).extractLsb' 24 8]
    (q ≤ s.cfg.maxSeq → p.length = s.cfg.fixedLen →
      exec (.encode .data a q p) s = .next { s with
        result := .bytes (frame ([0x01#8, BitVec.ofNat 8 a, BitVec.ofNat 8 q] ++ p)) } ∧
      (frame ([0x01#8, BitVec.ofNat 8 a, BitVec.ofNat 8 q] ++ p)).length = s.cfg.fixedLen + 7) ∧
    exec (.encode .ack a q p) s = .next { s with
      result := .bytes (frame [0x02#8, BitVec.ofNat 8 a]) } ∧
    exec (.encode .nak a q p) s = .next { s with
      result := .bytes (frame [0x03#8, BitVec.ofNat 8 a]) } ∧
    (frame [0x02#8, BitVec.ofNat 8 a]).length = 6 ∧ (frame [0x03#8, BitVec.ofNat 8 a]).length = 6

/-- DECODE (R115): the tests in their order, each result exactly where the rule gives it; nothing but the
returned value changes. -/
def Obligations.DecodeClassifiesBuffer : Prop :=
  ∀ (s : State) (b : Bytes), ∃ d : DecodeResult,
    exec (.decode b) s = .next { s with result := .frame d } ∧
    let k := b.getD 0 0#8
    let a := (b.getD 1 0#8).toNat
    let q := (b.getD 2 0#8).toNat
    let dataOk := k = 0x01#8 ∧ b.length = s.cfg.fixedLen + 7 ∧ a ≤ s.cfg.maxSeq ∧ q ≤ s.cfg.maxSeq
    let ackOk := k = 0x02#8 ∧ b.length = 6 ∧ a ≤ s.cfg.maxSeq
    let nakOk := k = 0x03#8 ∧ b.length = 6 ∧ a ≤ s.cfg.maxSeq
    (b.length < 6 → d = .corruptFrame) ∧
    (6 ≤ b.length → s.cfg.check b ≠ 0#32 → d = .corruptFrame) ∧
    (6 ≤ b.length → s.cfg.check b = 0#32 →
      (dataOk → d = .data a q ((b.drop 3).take s.cfg.fixedLen)) ∧
      (ackOk → d = .ack a) ∧ (nakOk → d = .nak a) ∧
      (¬dataOk → ¬ackOk → ¬nakOk → d = .malformedFrame))

/-- Words written out in the spec: the frames `ACK(ack=5)`, `NAK(ack=7)` and `DATA(ack=7, seq=0, P0)` of
95_test_vectors 2.3 in its configuration CFG-T, and the event codes of 30_encoding section 5. -/
def Obligations.SpecWordsDecode : Prop :=
  let c : Config := { Config.reference with maxSeq := 7, w := 4, fixedLen := 4, rxMax := 11 }
  decode c (.wire [0x02#8, 0x05#8, 0x0D#8, 0x7B#8, 0x7A#8, 0xFC#8]) = .ok (.ack 5) ∧
  decode c (.wire [0x03#8, 0x07#8, 0x60#8, 0x2B#8, 0x6F#8, 0x0B#8]) = .ok (.nak 7) ∧
  decode c (.wire [0x01#8, 0x07#8, 0x00#8, 0x50#8, 0x4B#8, 0x54#8, 0x00#8, 0x5E#8, 0xEE#8, 0xF4#8,
    0xB0#8]) = .ok (.data 7 0 [0x50#8, 0x4B#8, 0x54#8, 0x00#8]) ∧
  decode c (.input (.event ⟨2#3, 0x55#8, []⟩)) = .ok .channelReady ∧
  decode c (.input (.event ⟨4#3, 0x07#8, [0x11#8]⟩)) = .ok (.retxTimeout 0x07#8) ∧
  decode c (.input (.event ⟨6#3, 0x00#8, []⟩)) = .ok .reservedEvent6

/-! ### The sequence ring -/

/-- INC, SLOT and ACKVAL return `(s+1) mod R`, `s mod W` and the predecessor of `expected`, and write no
register (41_ring_arithmetic, INC, SLOT and ACKVAL). -/
def Obligations.RingFunctionsReturn : Prop :=
  ∀ (s : State) (q : Nat), s.cfg.legal = true → q ≤ s.cfg.maxSeq → s.expected ≤ s.cfg.maxSeq →
    exec (.inc q) s = .next { s with result := .ring (if q < s.cfg.maxSeq then q + 1 else 0) } ∧
    exec (.slot q) s = .next { s with
      result := .ring (if q < s.cfg.w then q else q - s.cfg.w) } ∧
    exec .ackval s = .next { s with
      result := .ring (if s.expected = 0 then s.cfg.maxSeq else s.expected - 1) }

/-- BETWEEN (R132): the three clauses, and the corner cases: an empty interval, the lower edge, the upper
edge. No register is written. -/
def Obligations.BetweenReturnsMembership : Prop :=
  ∀ (s : State) (a b c : Nat), ∃ v : Bool,
    exec (.between a b c) s = .next { s with result := .truth v } ∧
    (v = true ↔ (a ≤ b ∧ b < c) ∨ (c < a ∧ a ≤ b) ∨ (c < a ∧ b < c)) ∧
    (a = c → v = false) ∧ (b = a → a ≠ c → v = true) ∧ (b = c → v = false)

/-- The second form of BETWEEN (the spec's inference, 41_ring_arithmetic "Laws of BETWEEN"): the forward
distance of the member is below that of the upper edge. -/
def Obligations.BetweenIsForwardDistance : Prop :=
  ∀ (c : Config) (a b d : Nat), a ≤ c.maxSeq → b ≤ c.maxSeq → d ≤ c.maxSeq →
    (between a b d = true ↔ forward c a b < forward c a d)

/-- "any `W` consecutive ring values have `W` distinct slots", and values `W` apart share one
(41_ring_arithmetic, SLOT). -/
def Obligations.ConsecutiveSlotsDistinct : Prop :=
  ∀ (c : Config) (a : Nat), c.legal = true → a ≤ c.maxSeq →
    (∀ k < c.w, ∀ l < c.w, slot c (ahead c a k) = slot c (ahead c a l) → k = l) ∧
    slot c (ahead c a c.w) = slot c a

/-! ### The Timer Set -/

/-- ARM_RT (R140): the entry is armed with the delay, the action emitted whether or not it was armed, every
other entry and everything else left alone. -/
def Obligations.ArmRtReplacesEntry : Prop :=
  ∀ (s : State) (q d : Nat), s.cfg.legal = true → s.Shaped → q ≤ s.cfg.maxSeq →
    ∃ t, exec (.armRt q d) s = .next t ∧
      t = { s with rtArmed := t.rtArmed, rtDelay := t.rtDelay, actions := s.actions ++ [.armRt q d] } ∧
      (∀ i < s.cfg.w, t.rtArmed.getD i false = (s.rtArmed.getD i false || decide (i = slot s.cfg q))) ∧
      (∀ i < s.cfg.w, t.rtDelay.getD i 0 = if i = slot s.cfg q then d else s.rtDelay.getD i 0)

/-- CANCEL_RT (R141): the entry is unarmed, its delay left as it was; the action is emitted only if it was
armed. -/
def Obligations.CancelRtDisarmsEntry : Prop :=
  ∀ (s : State) (q : Nat), s.cfg.legal = true → s.Shaped → q ≤ s.cfg.maxSeq →
    ∃ t, exec (.cancelRt q) s = .next t ∧
      t = { s with
        rtArmed := t.rtArmed,
        actions := if s.rtArmed.getD (slot s.cfg q) false then s.actions ++ [.cancelRt q] else s.actions } ∧
      (∀ i < s.cfg.w, t.rtArmed.getD i false = (s.rtArmed.getD i false && !decide (i = slot s.cfg q)))

/-- ARM_ACK (R142): armed with the delay and the action emitted, whether or not it was armed. -/
def Obligations.ArmAckRestartsDeferral : Prop :=
  ∀ (s : State) (d : Nat),
    exec (.armAck d) s = .next { s with
      ackArmed := true, ackDelay := d, actions := s.actions ++ [.armAck d] }

/-- CANCEL_ACK (42_timer_set): disarmed with the action if it was armed, else nothing at all. -/
def Obligations.CancelAckOnlyWhenArmed : Prop :=
  ∀ (s : State),
    (s.ackArmed = true → exec .cancelAck s = .next { s with
      ackArmed := false, actions := s.actions ++ [.cancelAck] }) ∧
    (s.ackArmed = false → exec .cancelAck s = .next s)

/-! ### The Sender Window -/

/-- SUBMIT (R155): the packet is in the slot of `next_to_send`, every other byte of both buffers is as before,
the count and the upper edge advance by one and the old upper edge is returned. -/
def Obligations.SubmitStoresPacket : Prop :=
  ∀ (s : State) (p : Bytes), p.length = s.cfg.fixedLen →
    ∃ t, exec (.submit p) s = .next t ∧
      t = { s with
        outbox := t.outbox, bufferedCount := s.bufferedCount + 1,
        nextToSend := (s.nextToSend + 1) % s.cfg.r, result := .ring s.nextToSend } ∧
      t.memRead .outbox (slot s.cfg s.nextToSend) = p ∧
      (∀ a, a < slot s.cfg s.nextToSend * s.cfg.fixedLen ∨
          slot s.cfg s.nextToSend * s.cfg.fixedLen + s.cfg.fixedLen ≤ a →
        t.byteAt .outbox a = s.byteAt .outbox a) ∧
      (∀ a, t.byteAt .reassembly a = s.byteAt .reassembly a)

/-- TRANSMIT (R157): the frame carries the acknowledgment value as it is now, DATA the stored payload; it is
sent whatever `chan_ready` was; `chan_ready` is cleared, a pending deferred acknowledgment cancelled, and a
NAK sets suppression. Nothing else changes. -/
def Obligations.TransmitSendsFrame : Prop :=
  ∀ (s : State) (q : Nat),
    let a := (s.expected + s.cfg.maxSeq) % s.cfg.r
    let cancel : List Action := if s.ackArmed then [.cancelAck] else []
    exec (.transmit .data q) s = .next { s with
      chanReady := false, ackArmed := false,
      actions := s.actions ++
        .tx (encodeFrame s.cfg (.data a q (s.memRead .outbox (q % s.cfg.w)))) :: cancel } ∧
    exec (.transmit .ack q) s = .next { s with
      chanReady := false, ackArmed := false,
      actions := s.actions ++ .tx (encodeFrame s.cfg (.ack a)) :: cancel } ∧
    exec (.transmit .nak q) s = .next { s with
      chanReady := false, ackArmed := false, nakSuppressed := true,
      actions := s.actions ++ .tx (encodeFrame s.cfg (.nak a)) :: cancel }

/-- RESEND (R158): the stored payload goes out as a DATA frame with the current acknowledgment value and the
sequence's timer is armed with `T_DATA`; the outbox is not touched. -/
def Obligations.ResendTransmitsAndArms : Prop :=
  ∀ (s : State) (q : Nat),
    exec (.resend q) s = .next { s with
      chanReady := false, ackArmed := false,
      rtArmed := s.rtArmed.set (q % s.cfg.w) true,
      rtDelay := s.rtDelay.set (q % s.cfg.w) s.cfg.tData,
      actions := s.actions ++
        .tx (encodeFrame s.cfg (.data ((s.expected + s.cfg.maxSeq) % s.cfg.r) q
          (s.memRead .outbox (q % s.cfg.w)))) ::
        ((if s.ackArmed then [.cancelAck] else []) ++ [.armRt q s.cfg.tData]) }

/-- ACK_THROUGH (R160): outside the window nothing; inside, exactly the sequences from `ack_expected` through
`a` are retired, in that order, each with its timer cancelled. -/
def Obligations.AckThroughRetiresUpTo : Prop :=
  ∀ (s : State) (a : Nat), s.cfg.legal = true → s.Shaped → s.RingRegs → s.SenderInv →
    a ≤ s.cfg.maxSeq →
    (s.outstanding a = false → exec (.ackThrough a) s = .next s) ∧
    (s.outstanding a = true →
      let n := forward s.cfg s.ackExpected a + 1
      n ≤ s.bufferedCount ∧
      ∃ t, exec (.ackThrough a) s = .next t ∧
        t = { s with
          ackExpected := (a + 1) % s.cfg.r, bufferedCount := s.bufferedCount - n,
          rtArmed := t.rtArmed,
          actions := s.actions ++
            (((List.range n).map (ahead s.cfg s.ackExpected)).filter s.armedAt).map .cancelRt } ∧
        (∀ i < s.cfg.w, t.rtArmed.getD i false = (s.rtArmed.getD i false &&
          !((List.range n).any fun k => decide (slot s.cfg (ahead s.cfg s.ackExpected k) = i)))))

/-- Cumulative acknowledgment (the spec's inference, 43_sender_window "Cumulative-acknowledgment property"):
an acknowledgment of `a` retires every outstanding sequence up to and including `a`, and no others. -/
def Obligations.AckThroughIsCumulative : Prop :=
  ∀ (s : State) (a : Nat), s.cfg.legal = true → s.RingRegs → a ≤ s.cfg.maxSeq →
    ∃ t, exec (.ackThrough a) s = .next t ∧
      ∀ u ≤ s.cfg.maxSeq, t.outstanding u = true ↔
        s.outstanding u = true ∧
          ¬(s.outstanding a = true ∧ forward s.cfg s.ackExpected u ≤ forward s.cfg s.ackExpected a)

/-- NAK_RESEND (R161): the successor of the NAK's `ack` field is resent if it is outstanding, and only it;
else nothing happens. -/
def Obligations.NakResendsSuccessor : Prop :=
  ∀ (s : State) (a : Nat), a ≤ s.cfg.maxSeq →
    (s.outstanding ((a + 1) % s.cfg.r) = true →
      ∃ t, exec (.resend ((a + 1) % s.cfg.r)) s = .next t ∧ exec (.nakResend a) s = .next t) ∧
    (s.outstanding ((a + 1) % s.cfg.r) = false → exec (.nakResend a) s = .next s)

/-! ### The Receiver Window -/

/-- ON_DATA (44_receiver_window): a sequence outside the window is classed DATA_OOW, one inside whose bit is
set DATA_DUP, whatever its payload; neither changes any state. -/
def Obligations.OnDataIgnoresDuplicates : Prop :=
  ∀ (s : State) (q : Nat) (p : Bytes),
    (between s.expected q s.tooFar = false →
      exec (.onData q p) s = .next { s with result := .delivered [] .dataOow }) ∧
    (between s.expected q s.tooFar = true → s.arrived.getD (q % s.cfg.w) false = true →
      exec (.onData q p) s = .next { s with result := .delivered [] .dataDup })

/-- ON_DATA (44_receiver_window): a new sequence of the window that is not `expected` is stored and marked,
and nothing is delivered. Every byte outside its slot is as before. -/
def Obligations.OnDataStoresOutOfOrder : Prop :=
  ∀ (s : State) (q : Nat) (p : Bytes), s.cfg.legal = true → s.Shaped → s.RingRegs → s.ReceiverInv →
    q ≤ s.cfg.maxSeq → p.length = s.cfg.fixedLen → s.inWindow q = true → s.arrivedAt q = false →
    q ≠ s.expected →
    ∃ t, exec (.onData q p) s = .next t ∧
      t = { s with
        reassembly := t.reassembly, arrived := s.arrived.set (slot s.cfg q) true,
        result := .delivered [] .dataAccepted } ∧
      t.memRead .reassembly (slot s.cfg q) = p ∧
      (∀ a, a < slot s.cfg q * s.cfg.fixedLen ∨
          slot s.cfg q * s.cfg.fixedLen + s.cfg.fixedLen ≤ a →
        t.byteAt .reassembly a = s.byteAt .reassembly a) ∧
      (∀ a, t.byteAt .outbox a = s.byteAt .outbox a)

/-- ON_DATA (44_receiver_window): the awaited sequence is delivered with the whole contiguous run stored
behind it, in increasing sequence order, and both edges advance by the length of the run. -/
def Obligations.OnDataDeliversRun : Prop :=
  ∀ (s : State) (p : Bytes) (n : Nat), s.cfg.legal = true → s.Shaped → s.RingRegs → s.ReceiverInv →
    p.length = s.cfg.fixedLen → 1 ≤ n → n ≤ s.cfg.w →
    (∀ k, 1 ≤ k → k < n → s.arrivedAt (ahead s.cfg s.expected k) = true) →
    (n < s.cfg.w → s.arrivedAt (ahead s.cfg s.expected n) = false) →
    ∃ t, exec (.onData s.expected p) s = .next t ∧
      t = { s with
        reassembly := t.reassembly, arrived := t.arrived,
        expected := ahead s.cfg s.expected n, tooFar := ahead s.cfg s.tooFar n,
        result := .delivered
          (p :: (List.range (n - 1)).map fun k =>
            s.memRead .reassembly (slot s.cfg (ahead s.cfg s.expected (k + 1)))) .dataAccepted } ∧
      (∀ i < s.cfg.w, t.arrived.getD i false = (s.arrived.getD i false &&
        !((List.range n).any fun k => decide (slot s.cfg (ahead s.cfg s.expected k) = i)))) ∧
      t.memRead .reassembly (slot s.cfg s.expected) = p ∧
      (∀ a, a < slot s.cfg s.expected * s.cfg.fixedLen ∨
          slot s.cfg s.expected * s.cfg.fixedLen + s.cfg.fixedLen ≤ a →
        t.byteAt .reassembly a = s.byteAt .reassembly a) ∧
      (∀ a, t.byteAt .outbox a = s.byteAt .outbox a)

/-- SEND_ACK and SEND_NAK (R171, R172): the standalone frame with the current acknowledgment value, the
channel taken, a pending deferred acknowledgment cancelled, and suppression set by the NAK alone. -/
def Obligations.SendAckAndSendNak : Prop :=
  ∀ (s : State),
    let a := (s.expected + s.cfg.maxSeq) % s.cfg.r
    let cancel : List Action := if s.ackArmed then [.cancelAck] else []
    exec .sendAck s = .next { s with
      chanReady := false, ackArmed := false,
      actions := s.actions ++ .tx (encodeFrame s.cfg (.ack a)) :: cancel } ∧
    exec .sendNak s = .next { s with
      chanReady := false, ackArmed := false, nakSuppressed := true,
      actions := s.actions ++ .tx (encodeFrame s.cfg (.nak a)) :: cancel }

/-! ### The event handlers -/

/-- UPPER_READY (R180): a packet of the wrong length sets `ERR.EVCODE`, closed admission sets `ERR.ADM`, each
with no other effect; else the packet is stored, sent as a DATA frame with the current acknowledgment
value, and its timer armed. -/
def Obligations.UpperReadySubmitsOrRefuses : Prop :=
  ∀ (s : State) (p : Bytes),
    (p.length ≠ s.cfg.fixedLen → exec (.upperReady p) s = .next { s with err := s.err ||| 8#4 }) ∧
    (p.length = s.cfg.fixedLen → ¬(s.bufferedCount < s.cfg.w ∧ s.chanReady = true) →
      exec (.upperReady p) s = .next { s with err := s.err ||| 1#4 }) ∧
    (p.length = s.cfg.fixedLen → s.bufferedCount < s.cfg.w → s.chanReady = true →
      ∃ t, exec (.upperReady p) s = .next t ∧
        t = { s with
          outbox := t.outbox, bufferedCount := s.bufferedCount + 1,
          nextToSend := (s.nextToSend + 1) % s.cfg.r,
          rtArmed := s.rtArmed.set (slot s.cfg s.nextToSend) true,
          rtDelay := s.rtDelay.set (slot s.cfg s.nextToSend) s.cfg.tData,
          chanReady := false, ackArmed := false,
          actions := s.actions ++
            .tx (encodeFrame s.cfg (.data ((s.expected + s.cfg.maxSeq) % s.cfg.r) s.nextToSend p)) ::
            ((if s.ackArmed then [.cancelAck] else []) ++ [.armRt s.nextToSend s.cfg.tData]) } ∧
        t.memRead .outbox (slot s.cfg s.nextToSend) = p ∧
        (∀ a, a < slot s.cfg s.nextToSend * s.cfg.fixedLen ∨
            slot s.cfg s.nextToSend * s.cfg.fixedLen + s.cfg.fixedLen ≤ a →
          t.byteAt .outbox a = s.byteAt .outbox a) ∧
        (∀ a, t.byteAt .reassembly a = s.byteAt .reassembly a))

/-- Reserved event codes and UPPER_READY packets of the wrong length (R92): `ERR.EVCODE` is set and the
admission recomputation runs; a step changes nothing else the block keeps. -/
def Obligations.ReservedCodesSetEvcode : Prop :=
  ∀ (s : State) (e : Event) (rest : List Input),
    (exec .reservedEvent0 s = .next { s with err := s.err ||| 8#4 } ∧
     exec .reservedEvent6 s = .next { s with err := s.err ||| 8#4 } ∧
     exec .reservedEvent7 s = .next { s with err := s.err ||| 8#4 }) ∧
    (s.cfg.legal = true → s.inputs = .event e :: rest →
      (e.code = 0#3 ∨ e.code = 6#3 ∨ e.code = 7#3 ∨
        (e.code = 1#3 ∧ e.data.length ≠ s.cfg.fixedLen)) →
      step s = .next { s with
        err := s.err ||| 8#4, admEnable := decide (s.bufferedCount < s.cfg.w) && s.chanReady,
        phase := .wait, actions := [], cls := .none, inputs := rest })

/-- CHANNEL_READY (R182): `chan_ready` is set and nothing else changes; a second one changes nothing; the
following ADMISSION opens the gate if the window has room. -/
def Obligations.ChannelReadyIsIdempotent : Prop :=
  ∀ (s : State),
    exec .channelReady s = .next { s with chanReady := true } ∧
    (s.chanReady = true → exec .channelReady s = .next s) ∧
    (exec .admission { s with chanReady := true } = .next { s with
      chanReady := true, admEnable := decide (s.bufferedCount < s.cfg.w) })

/-- FRAME_RECEIVED (R183): the branch of what DECODE makes of the buffer, and nothing besides. -/
def Obligations.FrameReceivedBranches : Prop :=
  ∀ (s : State) (b : Bytes), ∃ t, exec (.frameReceived b) s = .next t ∧
    (decodeFrame s.cfg b = .corruptFrame → exec (.rxCorrupt b) s = .next t) ∧
    (decodeFrame s.cfg b = .malformedFrame → exec .rxMalformed s = .next t) ∧
    (∀ a q p, decodeFrame s.cfg b = .data a q p → exec (.rxData a q p) s = .next t) ∧
    (∀ a, decodeFrame s.cfg b = .nak a → exec (.rxNak a) s = .next t) ∧
    (∀ a, decodeFrame s.cfg b = .ack a → exec (.rxAck a) s = .next t)

/-- RX_CORRUPT (R184, R120): a NAK if suppression is off or byte 2 of a buffer of at least three bytes equals
`expected`, else the deferred acknowledgment is armed. The wire row CORRUPT is the same on the claimed
sequence. -/
def Obligations.CorruptBufferNakOrDefer : Prop :=
  ∀ (s : State) (b : Bytes),
    let nak := s.nakSuppressed = false ∨ (3 ≤ b.length ∧ (b.getD 2 0#8).toNat = s.expected)
    (nak → ∃ t, exec .sendNak { s with cls := .corrupt } = .next t ∧
      exec (.rxCorrupt b) s = .next t ∧ exec (.corrupt (claimedSeq b)) s = .next t) ∧
    (¬nak → ∃ t, t = { s with
        cls := .corrupt, ackArmed := true, ackDelay := s.cfg.tAck,
        actions := s.actions ++ [.armAck s.cfg.tAck] } ∧
      exec (.rxCorrupt b) s = .next t ∧ exec (.corrupt (claimedSeq b)) s = .next t)

/-- RX_MALFORMED (R185): the class and `ERR.MALFORMED`, nothing else. -/
def Obligations.MalformedBufferOnlyRecorded : Prop :=
  ∀ (s : State),
    exec .rxMalformed s = .next { s with cls := .malformed, err := s.err ||| 2#4 } ∧
    exec .malformed s = .next { s with cls := .malformed, err := s.err ||| 2#4 }

/-- RX_DATA (R186): the NAK-or-defer decision on `expected` as it was, ON_DATA, then for every payload in
order DELIVER, suppression cleared, the deferral restarted, and ACK_THROUGH last. -/
def Obligations.DataFrameProcessing : Prop :=
  ∀ (s : State) (a q : Nat) (p : Bytes), ∃ u v t out c,
    (q ≠ s.expected → s.nakSuppressed = false → exec .sendNak s = .next u) ∧
    (q = s.expected ∨ s.nakSuppressed = true → exec (.armAck s.cfg.tAck) s = .next u) ∧
    exec (.onData q p) u = .next v ∧ v.result = .delivered out c ∧
    exec (.ackThrough a) { v with
      result := s.result, cls := c,
      nakSuppressed := v.nakSuppressed && out.isEmpty,
      ackArmed := v.ackArmed || !out.isEmpty,
      ackDelay := if out.isEmpty then v.ackDelay else s.cfg.tAck,
      actions := v.actions ++ out.flatMap fun x => [.deliver x, .armAck s.cfg.tAck] } = .next t ∧
    exec (.rxData a q p) s = .next t ∧ exec (.data a q p) s = .next t

/-- "A NAK and a delivery never occur in the same RX_DATA" (the spec's inference, 45_engine_events "Corner
cases of RX_DATA"). -/
def Obligations.NoNakWithDelivery : Prop :=
  ∀ (s : State) (a q : Nat) (p : Bytes), s.cfg.legal = true → s.Shaped → s.RingRegs → s.ReceiverInv →
    q ≤ s.cfg.maxSeq → s.actions = [] →
    ∃ t, exec (.rxData a q p) s = .next t ∧
      ¬(t.actions.any Action.isTx = true ∧ t.actions.any Action.isDeliver = true)

/-- RX_NAK (R187): NAK_RESEND, then ACK_THROUGH. -/
def Obligations.NakFrameProcessing : Prop :=
  ∀ (s : State) (a : Nat), ∃ u t,
    exec (.nakResend a) { s with cls := .nak } = .next u ∧ exec (.ackThrough a) u = .next t ∧
    exec (.rxNak a) s = .next t ∧ exec (.nak a) s = .next t

/-- RX_ACK (R188): the class and ACK_THROUGH; a stale acknowledgment changes nothing but the class. -/
def Obligations.AckFrameProcessing : Prop :=
  ∀ (s : State) (a : Nat),
    (∃ t, exec (.ackThrough a) { s with cls := .ack } = .next t ∧
      exec (.rxAck a) s = .next t ∧ exec (.ack a) s = .next t) ∧
    (s.outstanding a = false → exec (.rxAck a) s = .next { s with cls := .ack })

/-- Spurious timeouts (R93): a sequence above MAX_SEQ, not outstanding or with an unarmed entry, or a
deferred-acknowledgment timeout while none is armed: `ERR.SPURIOUS` and no other effect. -/
def Obligations.SpuriousTimeoutsOnlyRecorded : Prop :=
  ∀ (s : State) (q : Byte),
    (s.cfg.maxSeq < q.toNat ∨ between s.ackExpected q.toNat s.nextToSend = false ∨
        s.rtArmed.getD (q.toNat % s.cfg.w) false = false →
      exec (.retxTimeout q) s = .next { s with err := s.err ||| 4#4 }) ∧
    (s.ackArmed = false → exec .ackTimeout s = .next { s with err := s.err ||| 4#4 })

/-- RETX_TIMEOUT (R190): the timed-out frame is resent; the successor, if outstanding, is re-armed with
`T_SHORT`, and every other outstanding sequence in increasing forward distance, the k-th with
`T_LONG + (k-1) * T_STEP`; the entries hold the delays they were armed with. The set of armed timers and
both windows are as before. -/
def Obligations.RetxTimeoutResendsAndStaggers : Prop :=
  ∀ (s : State) (q : Byte), s.cfg.legal = true → s.Shaped → s.RingRegs → s.SenderInv → s.TimerInv →
    q.toNat ≤ s.cfg.maxSeq → s.outstanding q.toNat = true →
    let n := (q.toNat + 1) % s.cfg.r
    let others := ((List.range' 2 (s.cfg.r - 2)).map (ahead s.cfg q.toNat)).filter s.outstanding
    ∃ t, exec (.retxTimeout q) s = .next t ∧
      t = { s with
        chanReady := false, ackArmed := false, rtDelay := t.rtDelay,
        actions := s.actions ++
          .tx (encodeFrame s.cfg (.data ((s.expected + s.cfg.maxSeq) % s.cfg.r) q.toNat
            (s.memRead .outbox (slot s.cfg q.toNat)))) ::
          ((if s.ackArmed then [.cancelAck] else []) ++ .armRt q.toNat s.cfg.tData ::
          ((if s.outstanding n then [.armRt n s.cfg.tShort] else []) ++
          others.zipIdx.map fun x => .armRt x.1 (s.cfg.tLong + x.2 * s.cfg.tStep))) } ∧
      t.delayAt q.toNat = s.cfg.tData ∧
      (s.outstanding n = true → t.delayAt n = s.cfg.tShort) ∧
      (∀ k u, others[k]? = some u → t.delayAt u = s.cfg.tLong + k * s.cfg.tStep) ∧
      (∀ i < s.cfg.w, s.rtArmed.getD i false = false → t.rtDelay.getD i 0 = s.rtDelay.getD i 0)

/-- ACK_TIMEOUT (R192, R146): a genuine expiry disarms the entry with no action and sends a standalone ACK; it
leaves suppression alone; a spurious one only sets `ERR.SPURIOUS`. -/
def Obligations.AckTimeoutSendsAck : Prop :=
  ∀ (s : State),
    (s.ackArmed = true → exec .ackTimeout s = .next { s with
      ackArmed := false, chanReady := false,
      actions := s.actions ++
        [.tx (encodeFrame s.cfg (.ack ((s.expected + s.cfg.maxSeq) % s.cfg.r)))] }) ∧
    (s.ackArmed = false → exec .ackTimeout s = .next { s with err := s.err ||| 4#4 })

/-- ADMISSION (R200): the gate is open exactly when the window has room and the channel is ready; it is
idempotent, and every step that processes an input ends with it, refused and spurious events included. -/
def Obligations.AdmissionRecomputed : Prop :=
  ∀ (s : State),
    exec .admission s = .next { s with
      admEnable := decide (s.bufferedCount < s.cfg.w) && s.chanReady } ∧
    (∀ t, exec .admission s = .next t → exec .admission t = .next t) ∧
    (∀ t, s.inputs ≠ [] → step s = .next t →
      t.admEnable = (decide (t.bufferedCount < t.cfg.w) && t.chanReady))

/-- STEP (R201): `class <- NONE`, the handler the code selects with the fields it uses, ADMISSION. -/
def Obligations.StepOperationIsHandlerThenAdmission : Prop :=
  ∀ (s : State) (e : Event), ∃ u t,
    let s' : State := { s with cls := .none }
    (e.code = 1#3 → exec (.upperReady e.data) s' = .next u) ∧
    (e.code = 2#3 → exec .channelReady s' = .next u) ∧
    (e.code = 3#3 → exec (.frameReceived e.data) s' = .next u) ∧
    (e.code = 4#3 → exec (.retxTimeout e.seq) s' = .next u) ∧
    (e.code = 5#3 → exec .ackTimeout s' = .next u) ∧
    (e.code = 0#3 ∨ e.code = 6#3 ∨ e.code = 7#3 → u = { s' with err := s.err ||| 8#4 }) ∧
    exec .admission u = .next t ∧ exec (.step e) s = .next t

/-! ### The machine's step -/

/-- A step runs the decoded oldest input: the stream moves on, the phase is RUN, the output list is empty and
`class` is NONE; after the operation ADMISSION runs and the phase is WAIT (10_state section 7,
60_exceptions section 4; the stream is the model's, log 2). A block with no input only waits. -/
def Obligations.StepRunsDecodedInput : Prop :=
  ∀ (s : State), s.cfg.legal = true →
    (∀ x rest i, s.inputs = x :: rest → decodeInput s.cfg x = .ok i →
      ∃ u, exec i { s with inputs := rest, phase := .run, actions := [], cls := .none } = .next u ∧
        step s = .next { u with
          admEnable := decide (u.bufferedCount < u.cfg.w) && u.chanReady, phase := .wait }) ∧
    (s.inputs = [] → step s = .next { s with actions := [] })

/-- No input stops the block: in a legal configuration every step on a descriptor that can be presented, in
every state, answers a next state (00_scope section 5 "total", 60_exceptions "No error is fatal"). -/
def Obligations.StepNeverStops : Prop :=
  ∀ (s : State), s.cfg.legal = true →
    (∀ e rest, s.inputs = .event e :: rest → e.code = 3#3 → e.data.length ≤ s.cfg.rxMax) →
    ∃ t, step s = .next t

/-- The two refusals: a configuration with `W != R/2`, `R` odd, `R < 2` or `R > 256`, or with lengths R7 does
not admit; and a received buffer longer than RX_MAX, which cannot be presented (00_scope section 4,
93_implementation_defined items 1 and 9; the refusal of the latter is the model's, log 16). -/
def Obligations.IllegalInputsRefused : Prop :=
  ∀ (s : State),
    (s.cfg.r ≠ 2 * s.cfg.w ∨ s.cfg.r % 2 = 1 ∨ s.cfg.r < 2 ∨ 256 < s.cfg.r ∨ s.cfg.fixedLen = 0 ∨
        s.cfg.rxMax < s.cfg.fixedLen + 7 →
      step s = .refused .illegalConfiguration) ∧
    (∀ e rest, s.cfg.legal = true → s.inputs = .event e :: rest → e.code = 3#3 →
      s.cfg.rxMax < e.data.length → step s = .refused .unpresentableDescriptor)

/-- RESET (R41, R250): every register at its reset value, no action; the parameters and the outside's stream
are untouched. The machine after power-on satisfies the same. The buffers' bytes and the delays are left
unspecified. -/
def Obligations.ResetValues : Prop :=
  State.reset.AfterReset ∧
  ∀ (s : State), ∃ t, exec .reset s = .next t ∧ t.AfterReset ∧ t.cfg = s.cfg ∧ t.inputs = s.inputs

/-! ### Invariants -/

/-- The invariants of 10_state hold after reset, in the reference configuration. -/
def Obligations.ResetMeetsInvariant : Prop := State.reset.Inv

/-- Every step keeps the invariants of 10_state: the ring values, the sender's count (R24), the receiver's
edges (R26), the arrival bit at `expected`, the armed timers, the admission gate (the spec's inferences
there), the buffers' canonical form and that every slot an operation may read is written. -/
def Obligations.StepKeepsInvariant : Prop :=
  ∀ (s t : State), s.Inv → step s = .next t → t.Inv

/-- The sender invariant (R24), by itself: it holds after reset and every step keeps it. -/
def Obligations.SenderWindowInvariant : Prop :=
  (State.reset.RingRegs ∧ State.reset.SenderInv) ∧
  ∀ (s t : State), s.RingRegs → s.SenderInv → step s = .next t → t.RingRegs ∧ t.SenderInv

/-- The receiver's upper edge (R26), by itself: `W` ahead of `expected` after reset, after every step and
after each round of the drain; an event advances it exactly as far as `expected`. -/
def Obligations.ReceiverWindowInvariant : Prop :=
  State.reset.tooFar = (State.reset.expected + State.reset.cfg.w) % State.reset.cfg.r ∧
  (∀ (s t : State), s.tooFar = (s.expected + s.cfg.w) % s.cfg.r → step s = .next t →
    t.tooFar = (t.expected + t.cfg.w) % t.cfg.r) ∧
  (∀ (s : State), s.tooFar = (s.expected + s.cfg.w) % s.cfg.r →
    s.advance.tooFar = (s.advance.expected + s.cfg.w) % s.cfg.r) ∧
  (∀ (s t : State) (e : Event) (rest : List Input), s.RingRegs → s.inputs = .event e :: rest →
    step s = .next t →
    ∃ n ≤ s.cfg.w, t.expected = ahead s.cfg s.expected n ∧ t.tooFar = ahead s.cfg s.tooFar n)

/-- The timer invariant (the spec's inference, 10_state "Timer invariant"): the armed entries are exactly the
slots of the outstanding sequences, after reset and after every step. -/
def Obligations.TimersMatchOutstanding : Prop :=
  State.reset.TimerInv ∧
  ∀ (s t : State), s.Shaped → s.RingRegs → s.SenderInv → s.TimerInv → step s = .next t → t.TimerInv

/-- Every step keeps the memories' canonical form (the model's layout, log 14). -/
def Obligations.MemoriesStayCanonical : Prop :=
  ∀ (s t : State), Memory.wf s.outbox → Memory.wf s.reassembly → step s = .next t →
    Memory.wf t.outbox ∧ Memory.wf t.reassembly

/-! ### Whole-machine rules -/

/-- ERR is sticky (10_state section 5): an event clears none of its bits; only RESET does. -/
def Obligations.ErrBitsAreSticky : Prop :=
  ∀ (s t : State) (e : Event) (rest : List Input), s.inputs = .event e :: rest → step s = .next t →
    ∀ b, s.errBit b = true → t.errBit b = true

/-- "none is reachable when the environment keeps the obligations" (10_state section 5): an event that
honours them sets no ERR bit. -/
def Obligations.HonouredEventsSetNoErr : Prop :=
  ∀ (s t : State) (e : Event) (rest : List Input), s.Inv → s.inputs = .event e :: rest →
    s.honouredBy e = true → step s = .next t → t.err = s.err

/-- "None of them changes what any later step does" (60_exceptions, contract violations): the ERR bits never
influence anything but themselves. -/
def Obligations.ErrNeverInfluencesAStep : Prop :=
  ∀ (s t : State) (e : BitVec 4), step s = .next t →
    ∃ e', step { s with err := e } = .next { t with err := e' }

/-- No rule of the step depends on a delay (70_reset_and_hazards section 4): states that differ only in
delays go to states that differ only in delays, with the same frames and deliveries. -/
def Obligations.DelaysNeverInfluenceAStep : Prop :=
  ∀ (s s' t : State), s.forgetDelays = s'.forgetDelays → step s = .next t →
    ∃ t', step s' = .next t' ∧ t.forgetDelays = t'.forgetDelays

/-- No event lets an unwritten byte be seen (10_state, outbox and reassembly: "no operation reads a slot
whose sequence is not outstanding", "stale bytes are never read"): the step is the same whatever the
unwritten bytes are. The counter changed here is the one the model's free bytes hang on (logs 5, 8). -/
def Obligations.UnwrittenBytesNeverSeen : Prop :=
  ∀ (s t : State) (e : Event) (rest : List Input) (n : Nat), s.Inv → s.inputs = .event e :: rest →
    step s = .next t → step { s with epoch := n } = .next { t with epoch := n }

/-- One step emits at most one frame and at most `W` deliveries (the spec's inference, 70_reset_and_hazards
"Transmission is not flow-controlled"). -/
def Obligations.OneFramePerStep : Prop :=
  ∀ (s t : State), step s = .next t →
    (t.actions.filter Action.isTx).length ≤ 1 ∧ (t.actions.filter Action.isDeliver).length ≤ s.cfg.w

/-- Who writes the buffers (20_memory section 1): only UPPER_READY changes a byte of the outbox and only
FRAME_RECEIVED one of the reassembly buffer. RESET leaves both unspecified. -/
def Obligations.BufferWriters : Prop :=
  ∀ (s t : State) (e : Event) (rest : List Input), s.inputs = .event e :: rest → step s = .next t →
    (e.code ≠ 1#3 → ∀ a, t.byteAt .outbox a = s.byteAt .outbox a) ∧
    (e.code ≠ 3#3 → ∀ a, t.byteAt .reassembly a = s.byteAt .reassembly a)

/-- The two transition rules of the flags (10_state section 4): suppression begins only with a NAK sent and
ends only with a delivery; the channel is ready after a step exactly if this step announced it, or it was
ready and this step sent nothing. -/
def Obligations.FlagTransitions : Prop :=
  ∀ (s t : State) (e : Event) (rest : List Input), s.inputs = .event e :: rest → step s = .next t →
    (s.nakSuppressed = false → t.nakSuppressed = true →
      ∃ a, Action.tx (encodeFrame s.cfg (.nak a)) ∈ t.actions) ∧
    (s.nakSuppressed = true → t.nakSuppressed = false → t.actions.any Action.isDeliver = true) ∧
    (t.chanReady = true ↔
      e.code = 2#3 ∨ (s.chanReady = true ∧ t.actions.any Action.isTx = false))

/-- The parameters are design-time constants (10_state section 5): no step writes them. After a step that
processed an input the block waits (10_state section 7). -/
def Obligations.ParametersAndPhase : Prop :=
  ∀ (s t : State), step s = .next t → t.cfg = s.cfg ∧ (s.inputs ≠ [] → t.phase = .wait)

/-- The registers fit the widths of 00_scope section 4 (the spec's inference there). -/
def Obligations.RegistersFitTheirWidths : Prop :=
  ∀ (s : State), s.Inv →
    s.ackExpected < 2 ^ s.cfg.seqBits ∧ s.nextToSend < 2 ^ s.cfg.seqBits ∧
    s.expected < 2 ^ s.cfg.seqBits ∧ s.tooFar < 2 ^ s.cfg.seqBits ∧
    s.bufferedCount < 2 ^ s.cfg.cntBits ∧ (∀ q, slot s.cfg q < 2 ^ s.cfg.slotBits)

/-- In-order, duplicate-free delivery, its safety half (70_reset_and_hazards section 5): over channels that
lose and detectably corrupt frames but keep their order, whatever the environment does, what each side was
delivered is always an initial part of what the other side submitted. The two ends start from reset with
whatever R41 leaves unspecified, and may differ in RX_MAX and the delays. The link is the model's reading
of that section (log 17). -/
def Obligations.LinkDeliversInOrder : Prop :=
  ∀ (l₀ l : Link) (ms : List LinkMove), l₀.Start → l₀.order = .fifo → l₀.run ms = some l →
    l.b.delivered <+: l.a.submitted ∧ l.a.delivered <+: l.b.submitted

/-- Between the moves of a link no event is pending (70_reset_and_hazards section 5, "End of a run"; the link
is the model's, log 17): two fresh ends of configurations that go together make a link at its start, with
no event pending in either serialiser, and every move leaves none. Which numbers of resets the ends have
behind them, and so which free values they hold, does not matter (log 8). -/
def Obligations.LinkStreamsStayEmpty : Prop :=
  (∀ (o : ChanOrder) (c c' : Config) (n n' : Nat) (ps ps' : List Bytes),
    c.legal = true → c'.legal = true → Peers c c' →
    Link.Start { order := o, a := End.start c n ps, b := End.start c' n' ps' }) ∧
  (∀ (l : Link), l.Start → l.a.engine.inputs = [] ∧ l.b.engine.inputs = []) ∧
  (∀ (l l' : Link) (m : LinkMove), l.a.engine.inputs = [] ∧ l.b.engine.inputs = [] →
    l.move m = some l' → l'.a.engine.inputs = [] ∧ l'.b.engine.inputs = [])
end

