-- ==== Sys2Proof/Laws/State.lean ====
section
/-! SUPPORT. One lemma per field per update of the state, so that no proof unfolds a record update. -/

namespace Sys2Proof.Machine

variable (s : State)

/-! ### emit -/

@[simp] theorem State.emit_cfg (a : Action) : (s.emit a).cfg = s.cfg := rfl
@[simp] theorem State.emit_ackExpected (a : Action) : (s.emit a).ackExpected = s.ackExpected := rfl
@[simp] theorem State.emit_nextToSend (a : Action) : (s.emit a).nextToSend = s.nextToSend := rfl
@[simp] theorem State.emit_bufferedCount (a : Action) : (s.emit a).bufferedCount = s.bufferedCount := rfl
@[simp] theorem State.emit_outbox (a : Action) : (s.emit a).outbox = s.outbox := rfl
@[simp] theorem State.emit_expected (a : Action) : (s.emit a).expected = s.expected := rfl
@[simp] theorem State.emit_tooFar (a : Action) : (s.emit a).tooFar = s.tooFar := rfl
@[simp] theorem State.emit_arrived (a : Action) : (s.emit a).arrived = s.arrived := rfl
@[simp] theorem State.emit_reassembly (a : Action) : (s.emit a).reassembly = s.reassembly := rfl
@[simp] theorem State.emit_rtArmed (a : Action) : (s.emit a).rtArmed = s.rtArmed := rfl
@[simp] theorem State.emit_rtDelay (a : Action) : (s.emit a).rtDelay = s.rtDelay := rfl
@[simp] theorem State.emit_ackArmed (a : Action) : (s.emit a).ackArmed = s.ackArmed := rfl
@[simp] theorem State.emit_ackDelay (a : Action) : (s.emit a).ackDelay = s.ackDelay := rfl
@[simp] theorem State.emit_nakSuppressed (a : Action) : (s.emit a).nakSuppressed = s.nakSuppressed := rfl
@[simp] theorem State.emit_chanReady (a : Action) : (s.emit a).chanReady = s.chanReady := rfl
@[simp] theorem State.emit_admEnable (a : Action) : (s.emit a).admEnable = s.admEnable := rfl
@[simp] theorem State.emit_err (a : Action) : (s.emit a).err = s.err := rfl
@[simp] theorem State.emit_phase (a : Action) : (s.emit a).phase = s.phase := rfl
@[simp] theorem State.emit_actions (a : Action) : (s.emit a).actions = s.actions ++ [a] := rfl
@[simp] theorem State.emit_cls (a : Action) : (s.emit a).cls = s.cls := rfl
@[simp] theorem State.emit_result (a : Action) : (s.emit a).result = s.result := rfl
@[simp] theorem State.emit_inputs (a : Action) : (s.emit a).inputs = s.inputs := rfl
@[simp] theorem State.emit_epoch (a : Action) : (s.emit a).epoch = s.epoch := rfl

/-! ### classify -/

@[simp] theorem State.classify_cfg (c : FrameClass) : (s.classify c).cfg = s.cfg := rfl
@[simp] theorem State.classify_ackExpected (c : FrameClass) : (s.classify c).ackExpected = s.ackExpected := rfl
@[simp] theorem State.classify_nextToSend (c : FrameClass) : (s.classify c).nextToSend = s.nextToSend := rfl
@[simp] theorem State.classify_bufferedCount (c : FrameClass) : (s.classify c).bufferedCount = s.bufferedCount := rfl
@[simp] theorem State.classify_outbox (c : FrameClass) : (s.classify c).outbox = s.outbox := rfl
@[simp] theorem State.classify_expected (c : FrameClass) : (s.classify c).expected = s.expected := rfl
@[simp] theorem State.classify_tooFar (c : FrameClass) : (s.classify c).tooFar = s.tooFar := rfl
@[simp] theorem State.classify_arrived (c : FrameClass) : (s.classify c).arrived = s.arrived := rfl
@[simp] theorem State.classify_reassembly (c : FrameClass) : (s.classify c).reassembly = s.reassembly := rfl
@[simp] theorem State.classify_rtArmed (c : FrameClass) : (s.classify c).rtArmed = s.rtArmed := rfl
@[simp] theorem State.classify_rtDelay (c : FrameClass) : (s.classify c).rtDelay = s.rtDelay := rfl
@[simp] theorem State.classify_ackArmed (c : FrameClass) : (s.classify c).ackArmed = s.ackArmed := rfl
@[simp] theorem State.classify_ackDelay (c : FrameClass) : (s.classify c).ackDelay = s.ackDelay := rfl
@[simp] theorem State.classify_nakSuppressed (c : FrameClass) : (s.classify c).nakSuppressed = s.nakSuppressed := rfl
@[simp] theorem State.classify_chanReady (c : FrameClass) : (s.classify c).chanReady = s.chanReady := rfl
@[simp] theorem State.classify_admEnable (c : FrameClass) : (s.classify c).admEnable = s.admEnable := rfl
@[simp] theorem State.classify_err (c : FrameClass) : (s.classify c).err = s.err := rfl
@[simp] theorem State.classify_phase (c : FrameClass) : (s.classify c).phase = s.phase := rfl
@[simp] theorem State.classify_actions (c : FrameClass) : (s.classify c).actions = s.actions := rfl
@[simp] theorem State.classify_cls (c : FrameClass) : (s.classify c).cls = c := rfl
@[simp] theorem State.classify_result (c : FrameClass) : (s.classify c).result = s.result := rfl
@[simp] theorem State.classify_inputs (c : FrameClass) : (s.classify c).inputs = s.inputs := rfl
@[simp] theorem State.classify_epoch (c : FrameClass) : (s.classify c).epoch = s.epoch := rfl

/-! ### answer -/

@[simp] theorem State.answer_cfg (r : Result) : (s.answer r).cfg = s.cfg := rfl
@[simp] theorem State.answer_ackExpected (r : Result) : (s.answer r).ackExpected = s.ackExpected := rfl
@[simp] theorem State.answer_nextToSend (r : Result) : (s.answer r).nextToSend = s.nextToSend := rfl
@[simp] theorem State.answer_bufferedCount (r : Result) : (s.answer r).bufferedCount = s.bufferedCount := rfl
@[simp] theorem State.answer_outbox (r : Result) : (s.answer r).outbox = s.outbox := rfl
@[simp] theorem State.answer_expected (r : Result) : (s.answer r).expected = s.expected := rfl
@[simp] theorem State.answer_tooFar (r : Result) : (s.answer r).tooFar = s.tooFar := rfl
@[simp] theorem State.answer_arrived (r : Result) : (s.answer r).arrived = s.arrived := rfl
@[simp] theorem State.answer_reassembly (r : Result) : (s.answer r).reassembly = s.reassembly := rfl
@[simp] theorem State.answer_rtArmed (r : Result) : (s.answer r).rtArmed = s.rtArmed := rfl
@[simp] theorem State.answer_rtDelay (r : Result) : (s.answer r).rtDelay = s.rtDelay := rfl
@[simp] theorem State.answer_ackArmed (r : Result) : (s.answer r).ackArmed = s.ackArmed := rfl
@[simp] theorem State.answer_ackDelay (r : Result) : (s.answer r).ackDelay = s.ackDelay := rfl
@[simp] theorem State.answer_nakSuppressed (r : Result) : (s.answer r).nakSuppressed = s.nakSuppressed := rfl
@[simp] theorem State.answer_chanReady (r : Result) : (s.answer r).chanReady = s.chanReady := rfl
@[simp] theorem State.answer_admEnable (r : Result) : (s.answer r).admEnable = s.admEnable := rfl
@[simp] theorem State.answer_err (r : Result) : (s.answer r).err = s.err := rfl
@[simp] theorem State.answer_phase (r : Result) : (s.answer r).phase = s.phase := rfl
@[simp] theorem State.answer_actions (r : Result) : (s.answer r).actions = s.actions := rfl
@[simp] theorem State.answer_cls (r : Result) : (s.answer r).cls = s.cls := rfl
@[simp] theorem State.answer_result (r : Result) : (s.answer r).result = r := rfl
@[simp] theorem State.answer_inputs (r : Result) : (s.answer r).inputs = s.inputs := rfl
@[simp] theorem State.answer_epoch (r : Result) : (s.answer r).epoch = s.epoch := rfl

/-! ### raise -/

@[simp] theorem State.raise_cfg (b : ErrBit) : (s.raise b).cfg = s.cfg := rfl
@[simp] theorem State.raise_ackExpected (b : ErrBit) : (s.raise b).ackExpected = s.ackExpected := rfl
@[simp] theorem State.raise_nextToSend (b : ErrBit) : (s.raise b).nextToSend = s.nextToSend := rfl
@[simp] theorem State.raise_bufferedCount (b : ErrBit) : (s.raise b).bufferedCount = s.bufferedCount := rfl
@[simp] theorem State.raise_outbox (b : ErrBit) : (s.raise b).outbox = s.outbox := rfl
@[simp] theorem State.raise_expected (b : ErrBit) : (s.raise b).expected = s.expected := rfl
@[simp] theorem State.raise_tooFar (b : ErrBit) : (s.raise b).tooFar = s.tooFar := rfl
@[simp] theorem State.raise_arrived (b : ErrBit) : (s.raise b).arrived = s.arrived := rfl
@[simp] theorem State.raise_reassembly (b : ErrBit) : (s.raise b).reassembly = s.reassembly := rfl
@[simp] theorem State.raise_rtArmed (b : ErrBit) : (s.raise b).rtArmed = s.rtArmed := rfl
@[simp] theorem State.raise_rtDelay (b : ErrBit) : (s.raise b).rtDelay = s.rtDelay := rfl
@[simp] theorem State.raise_ackArmed (b : ErrBit) : (s.raise b).ackArmed = s.ackArmed := rfl
@[simp] theorem State.raise_ackDelay (b : ErrBit) : (s.raise b).ackDelay = s.ackDelay := rfl
@[simp] theorem State.raise_nakSuppressed (b : ErrBit) : (s.raise b).nakSuppressed = s.nakSuppressed := rfl
@[simp] theorem State.raise_chanReady (b : ErrBit) : (s.raise b).chanReady = s.chanReady := rfl
@[simp] theorem State.raise_admEnable (b : ErrBit) : (s.raise b).admEnable = s.admEnable := rfl
@[simp] theorem State.raise_err (b : ErrBit) : (s.raise b).err = s.err ||| (1#4 <<< b.index) := rfl
@[simp] theorem State.raise_phase (b : ErrBit) : (s.raise b).phase = s.phase := rfl
@[simp] theorem State.raise_actions (b : ErrBit) : (s.raise b).actions = s.actions := rfl
@[simp] theorem State.raise_cls (b : ErrBit) : (s.raise b).cls = s.cls := rfl
@[simp] theorem State.raise_result (b : ErrBit) : (s.raise b).result = s.result := rfl
@[simp] theorem State.raise_inputs (b : ErrBit) : (s.raise b).inputs = s.inputs := rfl
@[simp] theorem State.raise_epoch (b : ErrBit) : (s.raise b).epoch = s.epoch := rfl

/-! ### suppressNak -/

@[simp] theorem State.suppressNak_cfg : (s.suppressNak).cfg = s.cfg := rfl
@[simp] theorem State.suppressNak_ackExpected : (s.suppressNak).ackExpected = s.ackExpected := rfl
@[simp] theorem State.suppressNak_nextToSend : (s.suppressNak).nextToSend = s.nextToSend := rfl
@[simp] theorem State.suppressNak_bufferedCount : (s.suppressNak).bufferedCount = s.bufferedCount := rfl
@[simp] theorem State.suppressNak_outbox : (s.suppressNak).outbox = s.outbox := rfl
@[simp] theorem State.suppressNak_expected : (s.suppressNak).expected = s.expected := rfl
@[simp] theorem State.suppressNak_tooFar : (s.suppressNak).tooFar = s.tooFar := rfl
@[simp] theorem State.suppressNak_arrived : (s.suppressNak).arrived = s.arrived := rfl
@[simp] theorem State.suppressNak_reassembly : (s.suppressNak).reassembly = s.reassembly := rfl
@[simp] theorem State.suppressNak_rtArmed : (s.suppressNak).rtArmed = s.rtArmed := rfl
@[simp] theorem State.suppressNak_rtDelay : (s.suppressNak).rtDelay = s.rtDelay := rfl
@[simp] theorem State.suppressNak_ackArmed : (s.suppressNak).ackArmed = s.ackArmed := rfl
@[simp] theorem State.suppressNak_ackDelay : (s.suppressNak).ackDelay = s.ackDelay := rfl
@[simp] theorem State.suppressNak_nakSuppressed : (s.suppressNak).nakSuppressed = true := rfl
@[simp] theorem State.suppressNak_chanReady : (s.suppressNak).chanReady = s.chanReady := rfl
@[simp] theorem State.suppressNak_admEnable : (s.suppressNak).admEnable = s.admEnable := rfl
@[simp] theorem State.suppressNak_err : (s.suppressNak).err = s.err := rfl
@[simp] theorem State.suppressNak_phase : (s.suppressNak).phase = s.phase := rfl
@[simp] theorem State.suppressNak_actions : (s.suppressNak).actions = s.actions := rfl
@[simp] theorem State.suppressNak_cls : (s.suppressNak).cls = s.cls := rfl
@[simp] theorem State.suppressNak_result : (s.suppressNak).result = s.result := rfl
@[simp] theorem State.suppressNak_inputs : (s.suppressNak).inputs = s.inputs := rfl
@[simp] theorem State.suppressNak_epoch : (s.suppressNak).epoch = s.epoch := rfl

/-! ### allowNak -/

@[simp] theorem State.allowNak_cfg : (s.allowNak).cfg = s.cfg := rfl
@[simp] theorem State.allowNak_ackExpected : (s.allowNak).ackExpected = s.ackExpected := rfl
@[simp] theorem State.allowNak_nextToSend : (s.allowNak).nextToSend = s.nextToSend := rfl
@[simp] theorem State.allowNak_bufferedCount : (s.allowNak).bufferedCount = s.bufferedCount := rfl
@[simp] theorem State.allowNak_outbox : (s.allowNak).outbox = s.outbox := rfl
@[simp] theorem State.allowNak_expected : (s.allowNak).expected = s.expected := rfl
@[simp] theorem State.allowNak_tooFar : (s.allowNak).tooFar = s.tooFar := rfl
@[simp] theorem State.allowNak_arrived : (s.allowNak).arrived = s.arrived := rfl
@[simp] theorem State.allowNak_reassembly : (s.allowNak).reassembly = s.reassembly := rfl
@[simp] theorem State.allowNak_rtArmed : (s.allowNak).rtArmed = s.rtArmed := rfl
@[simp] theorem State.allowNak_rtDelay : (s.allowNak).rtDelay = s.rtDelay := rfl
@[simp] theorem State.allowNak_ackArmed : (s.allowNak).ackArmed = s.ackArmed := rfl
@[simp] theorem State.allowNak_ackDelay : (s.allowNak).ackDelay = s.ackDelay := rfl
@[simp] theorem State.allowNak_nakSuppressed : (s.allowNak).nakSuppressed = false := rfl
@[simp] theorem State.allowNak_chanReady : (s.allowNak).chanReady = s.chanReady := rfl
@[simp] theorem State.allowNak_admEnable : (s.allowNak).admEnable = s.admEnable := rfl
@[simp] theorem State.allowNak_err : (s.allowNak).err = s.err := rfl
@[simp] theorem State.allowNak_phase : (s.allowNak).phase = s.phase := rfl
@[simp] theorem State.allowNak_actions : (s.allowNak).actions = s.actions := rfl
@[simp] theorem State.allowNak_cls : (s.allowNak).cls = s.cls := rfl
@[simp] theorem State.allowNak_result : (s.allowNak).result = s.result := rfl
@[simp] theorem State.allowNak_inputs : (s.allowNak).inputs = s.inputs := rfl
@[simp] theorem State.allowNak_epoch : (s.allowNak).epoch = s.epoch := rfl

/-! ### noteChannelReady -/

@[simp] theorem State.noteChannelReady_cfg : (s.noteChannelReady).cfg = s.cfg := rfl
@[simp] theorem State.noteChannelReady_ackExpected : (s.noteChannelReady).ackExpected = s.ackExpected := rfl
@[simp] theorem State.noteChannelReady_nextToSend : (s.noteChannelReady).nextToSend = s.nextToSend := rfl
@[simp] theorem State.noteChannelReady_bufferedCount : (s.noteChannelReady).bufferedCount = s.bufferedCount := rfl
@[simp] theorem State.noteChannelReady_outbox : (s.noteChannelReady).outbox = s.outbox := rfl
@[simp] theorem State.noteChannelReady_expected : (s.noteChannelReady).expected = s.expected := rfl
@[simp] theorem State.noteChannelReady_tooFar : (s.noteChannelReady).tooFar = s.tooFar := rfl
@[simp] theorem State.noteChannelReady_arrived : (s.noteChannelReady).arrived = s.arrived := rfl
@[simp] theorem State.noteChannelReady_reassembly : (s.noteChannelReady).reassembly = s.reassembly := rfl
@[simp] theorem State.noteChannelReady_rtArmed : (s.noteChannelReady).rtArmed = s.rtArmed := rfl
@[simp] theorem State.noteChannelReady_rtDelay : (s.noteChannelReady).rtDelay = s.rtDelay := rfl
@[simp] theorem State.noteChannelReady_ackArmed : (s.noteChannelReady).ackArmed = s.ackArmed := rfl
@[simp] theorem State.noteChannelReady_ackDelay : (s.noteChannelReady).ackDelay = s.ackDelay := rfl
@[simp] theorem State.noteChannelReady_nakSuppressed : (s.noteChannelReady).nakSuppressed = s.nakSuppressed := rfl
@[simp] theorem State.noteChannelReady_chanReady : (s.noteChannelReady).chanReady = true := rfl
@[simp] theorem State.noteChannelReady_admEnable : (s.noteChannelReady).admEnable = s.admEnable := rfl
@[simp] theorem State.noteChannelReady_err : (s.noteChannelReady).err = s.err := rfl
@[simp] theorem State.noteChannelReady_phase : (s.noteChannelReady).phase = s.phase := rfl
@[simp] theorem State.noteChannelReady_actions : (s.noteChannelReady).actions = s.actions := rfl
@[simp] theorem State.noteChannelReady_cls : (s.noteChannelReady).cls = s.cls := rfl
@[simp] theorem State.noteChannelReady_result : (s.noteChannelReady).result = s.result := rfl
@[simp] theorem State.noteChannelReady_inputs : (s.noteChannelReady).inputs = s.inputs := rfl
@[simp] theorem State.noteChannelReady_epoch : (s.noteChannelReady).epoch = s.epoch := rfl

/-! ### noteTransmission -/

@[simp] theorem State.noteTransmission_cfg : (s.noteTransmission).cfg = s.cfg := rfl
@[simp] theorem State.noteTransmission_ackExpected : (s.noteTransmission).ackExpected = s.ackExpected := rfl
@[simp] theorem State.noteTransmission_nextToSend : (s.noteTransmission).nextToSend = s.nextToSend := rfl
@[simp] theorem State.noteTransmission_bufferedCount : (s.noteTransmission).bufferedCount = s.bufferedCount := rfl
@[simp] theorem State.noteTransmission_outbox : (s.noteTransmission).outbox = s.outbox := rfl
@[simp] theorem State.noteTransmission_expected : (s.noteTransmission).expected = s.expected := rfl
@[simp] theorem State.noteTransmission_tooFar : (s.noteTransmission).tooFar = s.tooFar := rfl
@[simp] theorem State.noteTransmission_arrived : (s.noteTransmission).arrived = s.arrived := rfl
@[simp] theorem State.noteTransmission_reassembly : (s.noteTransmission).reassembly = s.reassembly := rfl
@[simp] theorem State.noteTransmission_rtArmed : (s.noteTransmission).rtArmed = s.rtArmed := rfl
@[simp] theorem State.noteTransmission_rtDelay : (s.noteTransmission).rtDelay = s.rtDelay := rfl
@[simp] theorem State.noteTransmission_ackArmed : (s.noteTransmission).ackArmed = s.ackArmed := rfl
@[simp] theorem State.noteTransmission_ackDelay : (s.noteTransmission).ackDelay = s.ackDelay := rfl
@[simp] theorem State.noteTransmission_nakSuppressed : (s.noteTransmission).nakSuppressed = s.nakSuppressed := rfl
@[simp] theorem State.noteTransmission_chanReady : (s.noteTransmission).chanReady = false := rfl
@[simp] theorem State.noteTransmission_admEnable : (s.noteTransmission).admEnable = s.admEnable := rfl
@[simp] theorem State.noteTransmission_err : (s.noteTransmission).err = s.err := rfl
@[simp] theorem State.noteTransmission_phase : (s.noteTransmission).phase = s.phase := rfl
@[simp] theorem State.noteTransmission_actions : (s.noteTransmission).actions = s.actions := rfl
@[simp] theorem State.noteTransmission_cls : (s.noteTransmission).cls = s.cls := rfl
@[simp] theorem State.noteTransmission_result : (s.noteTransmission).result = s.result := rfl
@[simp] theorem State.noteTransmission_inputs : (s.noteTransmission).inputs = s.inputs := rfl
@[simp] theorem State.noteTransmission_epoch : (s.noteTransmission).epoch = s.epoch := rfl

/-! ### admission -/

@[simp] theorem State.admission_cfg : (s.admission).cfg = s.cfg := rfl
@[simp] theorem State.admission_ackExpected : (s.admission).ackExpected = s.ackExpected := rfl
@[simp] theorem State.admission_nextToSend : (s.admission).nextToSend = s.nextToSend := rfl
@[simp] theorem State.admission_bufferedCount : (s.admission).bufferedCount = s.bufferedCount := rfl
@[simp] theorem State.admission_outbox : (s.admission).outbox = s.outbox := rfl
@[simp] theorem State.admission_expected : (s.admission).expected = s.expected := rfl
@[simp] theorem State.admission_tooFar : (s.admission).tooFar = s.tooFar := rfl
@[simp] theorem State.admission_arrived : (s.admission).arrived = s.arrived := rfl
@[simp] theorem State.admission_reassembly : (s.admission).reassembly = s.reassembly := rfl
@[simp] theorem State.admission_rtArmed : (s.admission).rtArmed = s.rtArmed := rfl
@[simp] theorem State.admission_rtDelay : (s.admission).rtDelay = s.rtDelay := rfl
@[simp] theorem State.admission_ackArmed : (s.admission).ackArmed = s.ackArmed := rfl
@[simp] theorem State.admission_ackDelay : (s.admission).ackDelay = s.ackDelay := rfl
@[simp] theorem State.admission_nakSuppressed : (s.admission).nakSuppressed = s.nakSuppressed := rfl
@[simp] theorem State.admission_chanReady : (s.admission).chanReady = s.chanReady := rfl
@[simp] theorem State.admission_admEnable : (s.admission).admEnable = s.admissible := rfl
@[simp] theorem State.admission_err : (s.admission).err = s.err := rfl
@[simp] theorem State.admission_phase : (s.admission).phase = s.phase := rfl
@[simp] theorem State.admission_actions : (s.admission).actions = s.actions := rfl
@[simp] theorem State.admission_cls : (s.admission).cls = s.cls := rfl
@[simp] theorem State.admission_result : (s.admission).result = s.result := rfl
@[simp] theorem State.admission_inputs : (s.admission).inputs = s.inputs := rfl
@[simp] theorem State.admission_epoch : (s.admission).epoch = s.epoch := rfl

/-! ### beginStep -/

@[simp] theorem State.beginStep_cfg (xs : List Input) : (s.beginStep xs).cfg = s.cfg := rfl
@[simp] theorem State.beginStep_ackExpected (xs : List Input) : (s.beginStep xs).ackExpected = s.ackExpected := rfl
@[simp] theorem State.beginStep_nextToSend (xs : List Input) : (s.beginStep xs).nextToSend = s.nextToSend := rfl
@[simp] theorem State.beginStep_bufferedCount (xs : List Input)
    : (s.beginStep xs).bufferedCount = s.bufferedCount := rfl
@[simp] theorem State.beginStep_outbox (xs : List Input) : (s.beginStep xs).outbox = s.outbox := rfl
@[simp] theorem State.beginStep_expected (xs : List Input) : (s.beginStep xs).expected = s.expected := rfl
@[simp] theorem State.beginStep_tooFar (xs : List Input) : (s.beginStep xs).tooFar = s.tooFar := rfl
@[simp] theorem State.beginStep_arrived (xs : List Input) : (s.beginStep xs).arrived = s.arrived := rfl
@[simp] theorem State.beginStep_reassembly (xs : List Input) : (s.beginStep xs).reassembly = s.reassembly := rfl
@[simp] theorem State.beginStep_rtArmed (xs : List Input) : (s.beginStep xs).rtArmed = s.rtArmed := rfl
@[simp] theorem State.beginStep_rtDelay (xs : List Input) : (s.beginStep xs).rtDelay = s.rtDelay := rfl
@[simp] theorem State.beginStep_ackArmed (xs : List Input) : (s.beginStep xs).ackArmed = s.ackArmed := rfl
@[simp] theorem State.beginStep_ackDelay (xs : List Input) : (s.beginStep xs).ackDelay = s.ackDelay := rfl
@[simp] theorem State.beginStep_nakSuppressed (xs : List Input)
    : (s.beginStep xs).nakSuppressed = s.nakSuppressed := rfl
@[simp] theorem State.beginStep_chanReady (xs : List Input) : (s.beginStep xs).chanReady = s.chanReady := rfl
@[simp] theorem State.beginStep_admEnable (xs : List Input) : (s.beginStep xs).admEnable = s.admEnable := rfl
@[simp] theorem State.beginStep_err (xs : List Input) : (s.beginStep xs).err = s.err := rfl
@[simp] theorem State.beginStep_phase (xs : List Input) : (s.beginStep xs).phase = .run := rfl
@[simp] theorem State.beginStep_actions (xs : List Input) : (s.beginStep xs).actions = [] := rfl
@[simp] theorem State.beginStep_cls (xs : List Input) : (s.beginStep xs).cls = .none := rfl
@[simp] theorem State.beginStep_result (xs : List Input) : (s.beginStep xs).result = s.result := rfl
@[simp] theorem State.beginStep_inputs (xs : List Input) : (s.beginStep xs).inputs = xs := rfl
@[simp] theorem State.beginStep_epoch (xs : List Input) : (s.beginStep xs).epoch = s.epoch := rfl

/-! ### finishStep -/

@[simp] theorem State.finishStep_cfg : (s.finishStep).cfg = s.cfg := rfl
@[simp] theorem State.finishStep_ackExpected : (s.finishStep).ackExpected = s.ackExpected := rfl
@[simp] theorem State.finishStep_nextToSend : (s.finishStep).nextToSend = s.nextToSend := rfl
@[simp] theorem State.finishStep_bufferedCount : (s.finishStep).bufferedCount = s.bufferedCount := rfl
@[simp] theorem State.finishStep_outbox : (s.finishStep).outbox = s.outbox := rfl
@[simp] theorem State.finishStep_expected : (s.finishStep).expected = s.expected := rfl
@[simp] theorem State.finishStep_tooFar : (s.finishStep).tooFar = s.tooFar := rfl
@[simp] theorem State.finishStep_arrived : (s.finishStep).arrived = s.arrived := rfl
@[simp] theorem State.finishStep_reassembly : (s.finishStep).reassembly = s.reassembly := rfl
@[simp] theorem State.finishStep_rtArmed : (s.finishStep).rtArmed = s.rtArmed := rfl
@[simp] theorem State.finishStep_rtDelay : (s.finishStep).rtDelay = s.rtDelay := rfl
@[simp] theorem State.finishStep_ackArmed : (s.finishStep).ackArmed = s.ackArmed := rfl
@[simp] theorem State.finishStep_ackDelay : (s.finishStep).ackDelay = s.ackDelay := rfl
@[simp] theorem State.finishStep_nakSuppressed : (s.finishStep).nakSuppressed = s.nakSuppressed := rfl
@[simp] theorem State.finishStep_chanReady : (s.finishStep).chanReady = s.chanReady := rfl
@[simp] theorem State.finishStep_admEnable : (s.finishStep).admEnable = s.admissible := rfl
@[simp] theorem State.finishStep_err : (s.finishStep).err = s.err := rfl
@[simp] theorem State.finishStep_phase : (s.finishStep).phase = .wait := rfl
@[simp] theorem State.finishStep_actions : (s.finishStep).actions = s.actions := rfl
@[simp] theorem State.finishStep_cls : (s.finishStep).cls = s.cls := rfl
@[simp] theorem State.finishStep_result : (s.finishStep).result = s.result := rfl
@[simp] theorem State.finishStep_inputs : (s.finishStep).inputs = s.inputs := rfl
@[simp] theorem State.finishStep_epoch : (s.finishStep).epoch = s.epoch := rfl

/-! ### idle -/

@[simp] theorem State.idle_cfg : (s.idle).cfg = s.cfg := rfl
@[simp] theorem State.idle_ackExpected : (s.idle).ackExpected = s.ackExpected := rfl
@[simp] theorem State.idle_nextToSend : (s.idle).nextToSend = s.nextToSend := rfl
@[simp] theorem State.idle_bufferedCount : (s.idle).bufferedCount = s.bufferedCount := rfl
@[simp] theorem State.idle_outbox : (s.idle).outbox = s.outbox := rfl
@[simp] theorem State.idle_expected : (s.idle).expected = s.expected := rfl
@[simp] theorem State.idle_tooFar : (s.idle).tooFar = s.tooFar := rfl
@[simp] theorem State.idle_arrived : (s.idle).arrived = s.arrived := rfl
@[simp] theorem State.idle_reassembly : (s.idle).reassembly = s.reassembly := rfl
@[simp] theorem State.idle_rtArmed : (s.idle).rtArmed = s.rtArmed := rfl
@[simp] theorem State.idle_rtDelay : (s.idle).rtDelay = s.rtDelay := rfl
@[simp] theorem State.idle_ackArmed : (s.idle).ackArmed = s.ackArmed := rfl
@[simp] theorem State.idle_ackDelay : (s.idle).ackDelay = s.ackDelay := rfl
@[simp] theorem State.idle_nakSuppressed : (s.idle).nakSuppressed = s.nakSuppressed := rfl
@[simp] theorem State.idle_chanReady : (s.idle).chanReady = s.chanReady := rfl
@[simp] theorem State.idle_admEnable : (s.idle).admEnable = s.admEnable := rfl
@[simp] theorem State.idle_err : (s.idle).err = s.err := rfl
@[simp] theorem State.idle_phase : (s.idle).phase = s.phase := rfl
@[simp] theorem State.idle_actions : (s.idle).actions = [] := rfl
@[simp] theorem State.idle_cls : (s.idle).cls = s.cls := rfl
@[simp] theorem State.idle_result : (s.idle).result = s.result := rfl
@[simp] theorem State.idle_inputs : (s.idle).inputs = s.inputs := rfl
@[simp] theorem State.idle_epoch : (s.idle).epoch = s.epoch := rfl

/-! ### present -/

@[simp] theorem State.present_cfg (x : Input) : (s.present x).cfg = s.cfg := rfl
@[simp] theorem State.present_ackExpected (x : Input) : (s.present x).ackExpected = s.ackExpected := rfl
@[simp] theorem State.present_nextToSend (x : Input) : (s.present x).nextToSend = s.nextToSend := rfl
@[simp] theorem State.present_bufferedCount (x : Input) : (s.present x).bufferedCount = s.bufferedCount := rfl
@[simp] theorem State.present_outbox (x : Input) : (s.present x).outbox = s.outbox := rfl
@[simp] theorem State.present_expected (x : Input) : (s.present x).expected = s.expected := rfl
@[simp] theorem State.present_tooFar (x : Input) : (s.present x).tooFar = s.tooFar := rfl
@[simp] theorem State.present_arrived (x : Input) : (s.present x).arrived = s.arrived := rfl
@[simp] theorem State.present_reassembly (x : Input) : (s.present x).reassembly = s.reassembly := rfl
@[simp] theorem State.present_rtArmed (x : Input) : (s.present x).rtArmed = s.rtArmed := rfl
@[simp] theorem State.present_rtDelay (x : Input) : (s.present x).rtDelay = s.rtDelay := rfl
@[simp] theorem State.present_ackArmed (x : Input) : (s.present x).ackArmed = s.ackArmed := rfl
@[simp] theorem State.present_ackDelay (x : Input) : (s.present x).ackDelay = s.ackDelay := rfl
@[simp] theorem State.present_nakSuppressed (x : Input) : (s.present x).nakSuppressed = s.nakSuppressed := rfl
@[simp] theorem State.present_chanReady (x : Input) : (s.present x).chanReady = s.chanReady := rfl
@[simp] theorem State.present_admEnable (x : Input) : (s.present x).admEnable = s.admEnable := rfl
@[simp] theorem State.present_err (x : Input) : (s.present x).err = s.err := rfl
@[simp] theorem State.present_phase (x : Input) : (s.present x).phase = s.phase := rfl
@[simp] theorem State.present_actions (x : Input) : (s.present x).actions = s.actions := rfl
@[simp] theorem State.present_cls (x : Input) : (s.present x).cls = s.cls := rfl
@[simp] theorem State.present_result (x : Input) : (s.present x).result = s.result := rfl
@[simp] theorem State.present_inputs (x : Input) : (s.present x).inputs = x :: s.inputs := rfl
@[simp] theorem State.present_epoch (x : Input) : (s.present x).epoch = s.epoch := rfl

/-! ### setMem -/

@[simp] theorem State.setMem_cfg (sp : Space) (m : Memory) : (s.setMem sp m).cfg = s.cfg := by cases sp <;> rfl
@[simp] theorem State.setMem_ackExpected (sp : Space) (m : Memory)
    : (s.setMem sp m).ackExpected = s.ackExpected := by cases sp <;> rfl
@[simp] theorem State.setMem_nextToSend (sp : Space) (m : Memory)
    : (s.setMem sp m).nextToSend = s.nextToSend := by cases sp <;> rfl
@[simp] theorem State.setMem_bufferedCount (sp : Space) (m : Memory)
    : (s.setMem sp m).bufferedCount = s.bufferedCount := by cases sp <;> rfl
@[simp] theorem State.setMem_expected (sp : Space) (m : Memory)
    : (s.setMem sp m).expected = s.expected := by cases sp <;> rfl
@[simp] theorem State.setMem_tooFar (sp : Space) (m : Memory)
    : (s.setMem sp m).tooFar = s.tooFar := by cases sp <;> rfl
@[simp] theorem State.setMem_arrived (sp : Space) (m : Memory)
    : (s.setMem sp m).arrived = s.arrived := by cases sp <;> rfl
@[simp] theorem State.setMem_rtArmed (sp : Space) (m : Memory)
    : (s.setMem sp m).rtArmed = s.rtArmed := by cases sp <;> rfl
@[simp] theorem State.setMem_rtDelay (sp : Space) (m : Memory)
    : (s.setMem sp m).rtDelay = s.rtDelay := by cases sp <;> rfl
@[simp] theorem State.setMem_ackArmed (sp : Space) (m : Memory)
    : (s.setMem sp m).ackArmed = s.ackArmed := by cases sp <;> rfl
@[simp] theorem State.setMem_ackDelay (sp : Space) (m : Memory)
    : (s.setMem sp m).ackDelay = s.ackDelay := by cases sp <;> rfl
@[simp] theorem State.setMem_nakSuppressed (sp : Space) (m : Memory)
    : (s.setMem sp m).nakSuppressed = s.nakSuppressed := by cases sp <;> rfl
@[simp] theorem State.setMem_chanReady (sp : Space) (m : Memory)
    : (s.setMem sp m).chanReady = s.chanReady := by cases sp <;> rfl
@[simp] theorem State.setMem_admEnable (sp : Space) (m : Memory)
    : (s.setMem sp m).admEnable = s.admEnable := by cases sp <;> rfl
@[simp] theorem State.setMem_err (sp : Space) (m : Memory) : (s.setMem sp m).err = s.err := by cases sp <;> rfl
@[simp] theorem State.setMem_phase (sp : Space) (m : Memory) : (s.setMem sp m).phase = s.phase := by cases sp <;> rfl
@[simp] theorem State.setMem_actions (sp : Space) (m : Memory)
    : (s.setMem sp m).actions = s.actions := by cases sp <;> rfl
@[simp] theorem State.setMem_cls (sp : Space) (m : Memory) : (s.setMem sp m).cls = s.cls := by cases sp <;> rfl
@[simp] theorem State.setMem_result (sp : Space) (m : Memory)
    : (s.setMem sp m).result = s.result := by cases sp <;> rfl
@[simp] theorem State.setMem_inputs (sp : Space) (m : Memory)
    : (s.setMem sp m).inputs = s.inputs := by cases sp <;> rfl
@[simp] theorem State.setMem_epoch (sp : Space) (m : Memory) : (s.setMem sp m).epoch = s.epoch := by cases sp <;> rfl

/-! ### memWrite -/

@[simp] theorem State.memWrite_cfg (sp : Space) (i : Nat) (p : Bytes)
    : (s.memWrite sp i p).cfg = s.cfg := by cases sp <;> rfl
@[simp] theorem State.memWrite_ackExpected (sp : Space) (i : Nat) (p : Bytes)
    : (s.memWrite sp i p).ackExpected = s.ackExpected := by cases sp <;> rfl
@[simp] theorem State.memWrite_nextToSend (sp : Space) (i : Nat) (p : Bytes)
    : (s.memWrite sp i p).nextToSend = s.nextToSend := by cases sp <;> rfl
@[simp] theorem State.memWrite_bufferedCount (sp : Space) (i : Nat) (p : Bytes)
    : (s.memWrite sp i p).bufferedCount = s.bufferedCount := by cases sp <;> rfl
@[simp] theorem State.memWrite_expected (sp : Space) (i : Nat) (p : Bytes)
    : (s.memWrite sp i p).expected = s.expected := by cases sp <;> rfl
@[simp] theorem State.memWrite_tooFar (sp : Space) (i : Nat) (p : Bytes)
    : (s.memWrite sp i p).tooFar = s.tooFar := by cases sp <;> rfl
@[simp] theorem State.memWrite_arrived (sp : Space) (i : Nat) (p : Bytes)
    : (s.memWrite sp i p).arrived = s.arrived := by cases sp <;> rfl
@[simp] theorem State.memWrite_rtArmed (sp : Space) (i : Nat) (p : Bytes)
    : (s.memWrite sp i p).rtArmed = s.rtArmed := by cases sp <;> rfl
@[simp] theorem State.memWrite_rtDelay (sp : Space) (i : Nat) (p : Bytes)
    : (s.memWrite sp i p).rtDelay = s.rtDelay := by cases sp <;> rfl
@[simp] theorem State.memWrite_ackArmed (sp : Space) (i : Nat) (p : Bytes)
    : (s.memWrite sp i p).ackArmed = s.ackArmed := by cases sp <;> rfl
@[simp] theorem State.memWrite_ackDelay (sp : Space) (i : Nat) (p : Bytes)
    : (s.memWrite sp i p).ackDelay = s.ackDelay := by cases sp <;> rfl
@[simp] theorem State.memWrite_nakSuppressed (sp : Space) (i : Nat) (p : Bytes)
    : (s.memWrite sp i p).nakSuppressed = s.nakSuppressed := by cases sp <;> rfl
@[simp] theorem State.memWrite_chanReady (sp : Space) (i : Nat) (p : Bytes)
    : (s.memWrite sp i p).chanReady = s.chanReady := by cases sp <;> rfl
@[simp] theorem State.memWrite_admEnable (sp : Space) (i : Nat) (p : Bytes)
    : (s.memWrite sp i p).admEnable = s.admEnable := by cases sp <;> rfl
@[simp] theorem State.memWrite_err (sp : Space) (i : Nat) (p : Bytes)
    : (s.memWrite sp i p).err = s.err := by cases sp <;> rfl
@[simp] theorem State.memWrite_phase (sp : Space) (i : Nat) (p : Bytes)
    : (s.memWrite sp i p).phase = s.phase := by cases sp <;> rfl
@[simp] theorem State.memWrite_actions (sp : Space) (i : Nat) (p : Bytes)
    : (s.memWrite sp i p).actions = s.actions := by cases sp <;> rfl
@[simp] theorem State.memWrite_cls (sp : Space) (i : Nat) (p : Bytes)
    : (s.memWrite sp i p).cls = s.cls := by cases sp <;> rfl
@[simp] theorem State.memWrite_result (sp : Space) (i : Nat) (p : Bytes)
    : (s.memWrite sp i p).result = s.result := by cases sp <;> rfl
@[simp] theorem State.memWrite_inputs (sp : Space) (i : Nat) (p : Bytes)
    : (s.memWrite sp i p).inputs = s.inputs := by cases sp <;> rfl
@[simp] theorem State.memWrite_epoch (sp : Space) (i : Nat) (p : Bytes)
    : (s.memWrite sp i p).epoch = s.epoch := by cases sp <;> rfl

/-! ### armRt -/

@[simp] theorem State.armRt_cfg (q d : Nat) : (s.armRt q d).cfg = s.cfg := rfl
@[simp] theorem State.armRt_ackExpected (q d : Nat) : (s.armRt q d).ackExpected = s.ackExpected := rfl
@[simp] theorem State.armRt_nextToSend (q d : Nat) : (s.armRt q d).nextToSend = s.nextToSend := rfl
@[simp] theorem State.armRt_bufferedCount (q d : Nat) : (s.armRt q d).bufferedCount = s.bufferedCount := rfl
@[simp] theorem State.armRt_outbox (q d : Nat) : (s.armRt q d).outbox = s.outbox := rfl
@[simp] theorem State.armRt_expected (q d : Nat) : (s.armRt q d).expected = s.expected := rfl
@[simp] theorem State.armRt_tooFar (q d : Nat) : (s.armRt q d).tooFar = s.tooFar := rfl
@[simp] theorem State.armRt_arrived (q d : Nat) : (s.armRt q d).arrived = s.arrived := rfl
@[simp] theorem State.armRt_reassembly (q d : Nat) : (s.armRt q d).reassembly = s.reassembly := rfl
@[simp] theorem State.armRt_rtArmed (q d : Nat) : (s.armRt q d).rtArmed = s.rtArmed.set (slot s.cfg q) true := rfl
@[simp] theorem State.armRt_rtDelay (q d : Nat) : (s.armRt q d).rtDelay = s.rtDelay.set (slot s.cfg q) d := rfl
@[simp] theorem State.armRt_ackArmed (q d : Nat) : (s.armRt q d).ackArmed = s.ackArmed := rfl
@[simp] theorem State.armRt_ackDelay (q d : Nat) : (s.armRt q d).ackDelay = s.ackDelay := rfl
@[simp] theorem State.armRt_nakSuppressed (q d : Nat) : (s.armRt q d).nakSuppressed = s.nakSuppressed := rfl
@[simp] theorem State.armRt_chanReady (q d : Nat) : (s.armRt q d).chanReady = s.chanReady := rfl
@[simp] theorem State.armRt_admEnable (q d : Nat) : (s.armRt q d).admEnable = s.admEnable := rfl
@[simp] theorem State.armRt_err (q d : Nat) : (s.armRt q d).err = s.err := rfl
@[simp] theorem State.armRt_phase (q d : Nat) : (s.armRt q d).phase = s.phase := rfl
@[simp] theorem State.armRt_actions (q d : Nat) : (s.armRt q d).actions = s.actions ++ [.armRt q d] := rfl
@[simp] theorem State.armRt_cls (q d : Nat) : (s.armRt q d).cls = s.cls := rfl
@[simp] theorem State.armRt_result (q d : Nat) : (s.armRt q d).result = s.result := rfl
@[simp] theorem State.armRt_inputs (q d : Nat) : (s.armRt q d).inputs = s.inputs := rfl
@[simp] theorem State.armRt_epoch (q d : Nat) : (s.armRt q d).epoch = s.epoch := rfl

/-! ### disarmRt -/

@[simp] theorem State.disarmRt_cfg (q : Nat) : (s.disarmRt q).cfg = s.cfg := rfl
@[simp] theorem State.disarmRt_ackExpected (q : Nat) : (s.disarmRt q).ackExpected = s.ackExpected := rfl
@[simp] theorem State.disarmRt_nextToSend (q : Nat) : (s.disarmRt q).nextToSend = s.nextToSend := rfl
@[simp] theorem State.disarmRt_bufferedCount (q : Nat) : (s.disarmRt q).bufferedCount = s.bufferedCount := rfl
@[simp] theorem State.disarmRt_outbox (q : Nat) : (s.disarmRt q).outbox = s.outbox := rfl
@[simp] theorem State.disarmRt_expected (q : Nat) : (s.disarmRt q).expected = s.expected := rfl
@[simp] theorem State.disarmRt_tooFar (q : Nat) : (s.disarmRt q).tooFar = s.tooFar := rfl
@[simp] theorem State.disarmRt_arrived (q : Nat) : (s.disarmRt q).arrived = s.arrived := rfl
@[simp] theorem State.disarmRt_reassembly (q : Nat) : (s.disarmRt q).reassembly = s.reassembly := rfl
@[simp] theorem State.disarmRt_rtArmed (q : Nat) : (s.disarmRt q).rtArmed = s.rtArmed.set (slot s.cfg q) false := rfl
@[simp] theorem State.disarmRt_rtDelay (q : Nat) : (s.disarmRt q).rtDelay = s.rtDelay := rfl
@[simp] theorem State.disarmRt_ackArmed (q : Nat) : (s.disarmRt q).ackArmed = s.ackArmed := rfl
@[simp] theorem State.disarmRt_ackDelay (q : Nat) : (s.disarmRt q).ackDelay = s.ackDelay := rfl
@[simp] theorem State.disarmRt_nakSuppressed (q : Nat) : (s.disarmRt q).nakSuppressed = s.nakSuppressed := rfl
@[simp] theorem State.disarmRt_chanReady (q : Nat) : (s.disarmRt q).chanReady = s.chanReady := rfl
@[simp] theorem State.disarmRt_admEnable (q : Nat) : (s.disarmRt q).admEnable = s.admEnable := rfl
@[simp] theorem State.disarmRt_err (q : Nat) : (s.disarmRt q).err = s.err := rfl
@[simp] theorem State.disarmRt_phase (q : Nat) : (s.disarmRt q).phase = s.phase := rfl
@[simp] theorem State.disarmRt_actions (q : Nat) : (s.disarmRt q).actions = s.actions := rfl
@[simp] theorem State.disarmRt_cls (q : Nat) : (s.disarmRt q).cls = s.cls := rfl
@[simp] theorem State.disarmRt_result (q : Nat) : (s.disarmRt q).result = s.result := rfl
@[simp] theorem State.disarmRt_inputs (q : Nat) : (s.disarmRt q).inputs = s.inputs := rfl
@[simp] theorem State.disarmRt_epoch (q : Nat) : (s.disarmRt q).epoch = s.epoch := rfl

/-! ### cancelRt -/

@[simp] theorem State.cancelRt_cfg (q : Nat) : (s.cancelRt q).cfg = s.cfg := by
  unfold State.cancelRt; split <;> rfl
@[simp] theorem State.cancelRt_ackExpected (q : Nat) : (s.cancelRt q).ackExpected = s.ackExpected := by
  unfold State.cancelRt; split <;> rfl
@[simp] theorem State.cancelRt_nextToSend (q : Nat) : (s.cancelRt q).nextToSend = s.nextToSend := by
  unfold State.cancelRt; split <;> rfl
@[simp] theorem State.cancelRt_bufferedCount (q : Nat) : (s.cancelRt q).bufferedCount = s.bufferedCount := by
  unfold State.cancelRt; split <;> rfl
@[simp] theorem State.cancelRt_outbox (q : Nat) : (s.cancelRt q).outbox = s.outbox := by
  unfold State.cancelRt; split <;> rfl
@[simp] theorem State.cancelRt_expected (q : Nat) : (s.cancelRt q).expected = s.expected := by
  unfold State.cancelRt; split <;> rfl
@[simp] theorem State.cancelRt_tooFar (q : Nat) : (s.cancelRt q).tooFar = s.tooFar := by
  unfold State.cancelRt; split <;> rfl
@[simp] theorem State.cancelRt_arrived (q : Nat) : (s.cancelRt q).arrived = s.arrived := by
  unfold State.cancelRt; split <;> rfl
@[simp] theorem State.cancelRt_reassembly (q : Nat) : (s.cancelRt q).reassembly = s.reassembly := by
  unfold State.cancelRt; split <;> rfl
@[simp] theorem State.cancelRt_rtArmed (q : Nat) : (s.cancelRt q).rtArmed = s.rtArmed.set (slot s.cfg q) false := by
  unfold State.cancelRt; split <;> rfl
@[simp] theorem State.cancelRt_rtDelay (q : Nat) : (s.cancelRt q).rtDelay = s.rtDelay := by
  unfold State.cancelRt; split <;> rfl
@[simp] theorem State.cancelRt_ackArmed (q : Nat) : (s.cancelRt q).ackArmed = s.ackArmed := by
  unfold State.cancelRt; split <;> rfl
@[simp] theorem State.cancelRt_ackDelay (q : Nat) : (s.cancelRt q).ackDelay = s.ackDelay := by
  unfold State.cancelRt; split <;> rfl
@[simp] theorem State.cancelRt_nakSuppressed (q : Nat) : (s.cancelRt q).nakSuppressed = s.nakSuppressed := by
  unfold State.cancelRt; split <;> rfl
@[simp] theorem State.cancelRt_chanReady (q : Nat) : (s.cancelRt q).chanReady = s.chanReady := by
  unfold State.cancelRt; split <;> rfl
@[simp] theorem State.cancelRt_admEnable (q : Nat) : (s.cancelRt q).admEnable = s.admEnable := by
  unfold State.cancelRt; split <;> rfl
@[simp] theorem State.cancelRt_err (q : Nat) : (s.cancelRt q).err = s.err := by
  unfold State.cancelRt; split <;> rfl
@[simp] theorem State.cancelRt_phase (q : Nat) : (s.cancelRt q).phase = s.phase := by
  unfold State.cancelRt; split <;> rfl
@[simp] theorem State.cancelRt_actions (q : Nat)
    : (s.cancelRt q).actions = if s.armedAt q then s.actions ++ [.cancelRt q] else s.actions := by
  unfold State.cancelRt; split <;> rfl
@[simp] theorem State.cancelRt_cls (q : Nat) : (s.cancelRt q).cls = s.cls := by
  unfold State.cancelRt; split <;> rfl
@[simp] theorem State.cancelRt_result (q : Nat) : (s.cancelRt q).result = s.result := by
  unfold State.cancelRt; split <;> rfl
@[simp] theorem State.cancelRt_inputs (q : Nat) : (s.cancelRt q).inputs = s.inputs := by
  unfold State.cancelRt; split <;> rfl
@[simp] theorem State.cancelRt_epoch (q : Nat) : (s.cancelRt q).epoch = s.epoch := by
  unfold State.cancelRt; split <;> rfl

/-! ### armAck -/

@[simp] theorem State.armAck_cfg (d : Nat) : (s.armAck d).cfg = s.cfg := rfl
@[simp] theorem State.armAck_ackExpected (d : Nat) : (s.armAck d).ackExpected = s.ackExpected := rfl
@[simp] theorem State.armAck_nextToSend (d : Nat) : (s.armAck d).nextToSend = s.nextToSend := rfl
@[simp] theorem State.armAck_bufferedCount (d : Nat) : (s.armAck d).bufferedCount = s.bufferedCount := rfl
@[simp] theorem State.armAck_outbox (d : Nat) : (s.armAck d).outbox = s.outbox := rfl
@[simp] theorem State.armAck_expected (d : Nat) : (s.armAck d).expected = s.expected := rfl
@[simp] theorem State.armAck_tooFar (d : Nat) : (s.armAck d).tooFar = s.tooFar := rfl
@[simp] theorem State.armAck_arrived (d : Nat) : (s.armAck d).arrived = s.arrived := rfl
@[simp] theorem State.armAck_reassembly (d : Nat) : (s.armAck d).reassembly = s.reassembly := rfl
@[simp] theorem State.armAck_rtArmed (d : Nat) : (s.armAck d).rtArmed = s.rtArmed := rfl
@[simp] theorem State.armAck_rtDelay (d : Nat) : (s.armAck d).rtDelay = s.rtDelay := rfl
@[simp] theorem State.armAck_ackArmed (d : Nat) : (s.armAck d).ackArmed = true := rfl
@[simp] theorem State.armAck_ackDelay (d : Nat) : (s.armAck d).ackDelay = d := rfl
@[simp] theorem State.armAck_nakSuppressed (d : Nat) : (s.armAck d).nakSuppressed = s.nakSuppressed := rfl
@[simp] theorem State.armAck_chanReady (d : Nat) : (s.armAck d).chanReady = s.chanReady := rfl
@[simp] theorem State.armAck_admEnable (d : Nat) : (s.armAck d).admEnable = s.admEnable := rfl
@[simp] theorem State.armAck_err (d : Nat) : (s.armAck d).err = s.err := rfl
@[simp] theorem State.armAck_phase (d : Nat) : (s.armAck d).phase = s.phase := rfl
@[simp] theorem State.armAck_actions (d : Nat) : (s.armAck d).actions = s.actions ++ [.armAck d] := rfl
@[simp] theorem State.armAck_cls (d : Nat) : (s.armAck d).cls = s.cls := rfl
@[simp] theorem State.armAck_result (d : Nat) : (s.armAck d).result = s.result := rfl
@[simp] theorem State.armAck_inputs (d : Nat) : (s.armAck d).inputs = s.inputs := rfl
@[simp] theorem State.armAck_epoch (d : Nat) : (s.armAck d).epoch = s.epoch := rfl

/-! ### disarmAck -/

@[simp] theorem State.disarmAck_cfg : (s.disarmAck).cfg = s.cfg := rfl
@[simp] theorem State.disarmAck_ackExpected : (s.disarmAck).ackExpected = s.ackExpected := rfl
@[simp] theorem State.disarmAck_nextToSend : (s.disarmAck).nextToSend = s.nextToSend := rfl
@[simp] theorem State.disarmAck_bufferedCount : (s.disarmAck).bufferedCount = s.bufferedCount := rfl
@[simp] theorem State.disarmAck_outbox : (s.disarmAck).outbox = s.outbox := rfl
@[simp] theorem State.disarmAck_expected : (s.disarmAck).expected = s.expected := rfl
@[simp] theorem State.disarmAck_tooFar : (s.disarmAck).tooFar = s.tooFar := rfl
@[simp] theorem State.disarmAck_arrived : (s.disarmAck).arrived = s.arrived := rfl
@[simp] theorem State.disarmAck_reassembly : (s.disarmAck).reassembly = s.reassembly := rfl
@[simp] theorem State.disarmAck_rtArmed : (s.disarmAck).rtArmed = s.rtArmed := rfl
@[simp] theorem State.disarmAck_rtDelay : (s.disarmAck).rtDelay = s.rtDelay := rfl
@[simp] theorem State.disarmAck_ackArmed : (s.disarmAck).ackArmed = false := rfl
@[simp] theorem State.disarmAck_ackDelay : (s.disarmAck).ackDelay = s.ackDelay := rfl
@[simp] theorem State.disarmAck_nakSuppressed : (s.disarmAck).nakSuppressed = s.nakSuppressed := rfl
@[simp] theorem State.disarmAck_chanReady : (s.disarmAck).chanReady = s.chanReady := rfl
@[simp] theorem State.disarmAck_admEnable : (s.disarmAck).admEnable = s.admEnable := rfl
@[simp] theorem State.disarmAck_err : (s.disarmAck).err = s.err := rfl
@[simp] theorem State.disarmAck_phase : (s.disarmAck).phase = s.phase := rfl
@[simp] theorem State.disarmAck_actions : (s.disarmAck).actions = s.actions := rfl
@[simp] theorem State.disarmAck_cls : (s.disarmAck).cls = s.cls := rfl
@[simp] theorem State.disarmAck_result : (s.disarmAck).result = s.result := rfl
@[simp] theorem State.disarmAck_inputs : (s.disarmAck).inputs = s.inputs := rfl
@[simp] theorem State.disarmAck_epoch : (s.disarmAck).epoch = s.epoch := rfl

/-! ### cancelAck -/

@[simp] theorem State.cancelAck_cfg : (s.cancelAck).cfg = s.cfg := by
  unfold State.cancelAck; split <;> rfl
@[simp] theorem State.cancelAck_ackExpected : (s.cancelAck).ackExpected = s.ackExpected := by
  unfold State.cancelAck; split <;> rfl
@[simp] theorem State.cancelAck_nextToSend : (s.cancelAck).nextToSend = s.nextToSend := by
  unfold State.cancelAck; split <;> rfl
@[simp] theorem State.cancelAck_bufferedCount : (s.cancelAck).bufferedCount = s.bufferedCount := by
  unfold State.cancelAck; split <;> rfl
@[simp] theorem State.cancelAck_outbox : (s.cancelAck).outbox = s.outbox := by
  unfold State.cancelAck; split <;> rfl
@[simp] theorem State.cancelAck_expected : (s.cancelAck).expected = s.expected := by
  unfold State.cancelAck; split <;> rfl
@[simp] theorem State.cancelAck_tooFar : (s.cancelAck).tooFar = s.tooFar := by
  unfold State.cancelAck; split <;> rfl
@[simp] theorem State.cancelAck_arrived : (s.cancelAck).arrived = s.arrived := by
  unfold State.cancelAck; split <;> rfl
@[simp] theorem State.cancelAck_reassembly : (s.cancelAck).reassembly = s.reassembly := by
  unfold State.cancelAck; split <;> rfl
@[simp] theorem State.cancelAck_rtArmed : (s.cancelAck).rtArmed = s.rtArmed := by
  unfold State.cancelAck; split <;> rfl
@[simp] theorem State.cancelAck_rtDelay : (s.cancelAck).rtDelay = s.rtDelay := by
  unfold State.cancelAck; split <;> rfl
@[simp] theorem State.cancelAck_ackArmed : (s.cancelAck).ackArmed = false := by
  unfold State.cancelAck; split <;> rfl
@[simp] theorem State.cancelAck_ackDelay : (s.cancelAck).ackDelay = s.ackDelay := by
  unfold State.cancelAck; split <;> rfl
@[simp] theorem State.cancelAck_nakSuppressed : (s.cancelAck).nakSuppressed = s.nakSuppressed := by
  unfold State.cancelAck; split <;> rfl
@[simp] theorem State.cancelAck_chanReady : (s.cancelAck).chanReady = s.chanReady := by
  unfold State.cancelAck; split <;> rfl
@[simp] theorem State.cancelAck_admEnable : (s.cancelAck).admEnable = s.admEnable := by
  unfold State.cancelAck; split <;> rfl
@[simp] theorem State.cancelAck_err : (s.cancelAck).err = s.err := by
  unfold State.cancelAck; split <;> rfl
@[simp] theorem State.cancelAck_phase : (s.cancelAck).phase = s.phase := by
  unfold State.cancelAck; split <;> rfl
@[simp] theorem State.cancelAck_actions
    : (s.cancelAck).actions = if s.ackArmed then s.actions ++ [.cancelAck] else s.actions := by
  unfold State.cancelAck; split <;> rfl
@[simp] theorem State.cancelAck_cls : (s.cancelAck).cls = s.cls := by
  unfold State.cancelAck; split <;> rfl
@[simp] theorem State.cancelAck_result : (s.cancelAck).result = s.result := by
  unfold State.cancelAck; split <;> rfl
@[simp] theorem State.cancelAck_inputs : (s.cancelAck).inputs = s.inputs := by
  unfold State.cancelAck; split <;> rfl
@[simp] theorem State.cancelAck_epoch : (s.cancelAck).epoch = s.epoch := by
  unfold State.cancelAck; split <;> rfl

/-! ### submit -/

@[simp] theorem State.submit_cfg (p : Bytes) : (s.submit p).cfg = s.cfg := rfl
@[simp] theorem State.submit_ackExpected (p : Bytes) : (s.submit p).ackExpected = s.ackExpected := rfl
@[simp] theorem State.submit_nextToSend (p : Bytes) : (s.submit p).nextToSend = inc s.cfg s.nextToSend := rfl
@[simp] theorem State.submit_bufferedCount (p : Bytes) : (s.submit p).bufferedCount = s.bufferedCount + 1 := rfl
@[simp] theorem State.submit_outbox (p : Bytes)
    : (s.submit p).outbox = Memory.writeBytes s.outbox (slot s.cfg s.nextToSend * s.cfg.fixedLen) p := rfl
@[simp] theorem State.submit_expected (p : Bytes) : (s.submit p).expected = s.expected := rfl
@[simp] theorem State.submit_tooFar (p : Bytes) : (s.submit p).tooFar = s.tooFar := rfl
@[simp] theorem State.submit_arrived (p : Bytes) : (s.submit p).arrived = s.arrived := rfl
@[simp] theorem State.submit_reassembly (p : Bytes) : (s.submit p).reassembly = s.reassembly := rfl
@[simp] theorem State.submit_rtArmed (p : Bytes) : (s.submit p).rtArmed = s.rtArmed := rfl
@[simp] theorem State.submit_rtDelay (p : Bytes) : (s.submit p).rtDelay = s.rtDelay := rfl
@[simp] theorem State.submit_ackArmed (p : Bytes) : (s.submit p).ackArmed = s.ackArmed := rfl
@[simp] theorem State.submit_ackDelay (p : Bytes) : (s.submit p).ackDelay = s.ackDelay := rfl
@[simp] theorem State.submit_nakSuppressed (p : Bytes) : (s.submit p).nakSuppressed = s.nakSuppressed := rfl
@[simp] theorem State.submit_chanReady (p : Bytes) : (s.submit p).chanReady = s.chanReady := rfl
@[simp] theorem State.submit_admEnable (p : Bytes) : (s.submit p).admEnable = s.admEnable := rfl
@[simp] theorem State.submit_err (p : Bytes) : (s.submit p).err = s.err := rfl
@[simp] theorem State.submit_phase (p : Bytes) : (s.submit p).phase = s.phase := rfl
@[simp] theorem State.submit_actions (p : Bytes) : (s.submit p).actions = s.actions := rfl
@[simp] theorem State.submit_cls (p : Bytes) : (s.submit p).cls = s.cls := rfl
@[simp] theorem State.submit_result (p : Bytes) : (s.submit p).result = s.result := rfl
@[simp] theorem State.submit_inputs (p : Bytes) : (s.submit p).inputs = s.inputs := rfl
@[simp] theorem State.submit_epoch (p : Bytes) : (s.submit p).epoch = s.epoch := rfl

/-! ### transmit -/

@[simp] theorem State.transmit_cfg (k : FrameKind) (q : Nat) : (s.transmit k q).cfg = s.cfg := by
  cases k <;> simp [State.transmit]
@[simp] theorem State.transmit_ackExpected (k : FrameKind) (q : Nat)
    : (s.transmit k q).ackExpected = s.ackExpected := by
  cases k <;> simp [State.transmit]
@[simp] theorem State.transmit_nextToSend (k : FrameKind) (q : Nat) : (s.transmit k q).nextToSend = s.nextToSend := by
  cases k <;> simp [State.transmit]
@[simp] theorem State.transmit_bufferedCount (k : FrameKind) (q : Nat)
    : (s.transmit k q).bufferedCount = s.bufferedCount := by
  cases k <;> simp [State.transmit]
@[simp] theorem State.transmit_outbox (k : FrameKind) (q : Nat) : (s.transmit k q).outbox = s.outbox := by
  cases k <;> simp [State.transmit]
@[simp] theorem State.transmit_expected (k : FrameKind) (q : Nat) : (s.transmit k q).expected = s.expected := by
  cases k <;> simp [State.transmit]
@[simp] theorem State.transmit_tooFar (k : FrameKind) (q : Nat) : (s.transmit k q).tooFar = s.tooFar := by
  cases k <;> simp [State.transmit]
@[simp] theorem State.transmit_arrived (k : FrameKind) (q : Nat) : (s.transmit k q).arrived = s.arrived := by
  cases k <;> simp [State.transmit]
@[simp] theorem State.transmit_reassembly (k : FrameKind) (q : Nat) : (s.transmit k q).reassembly = s.reassembly := by
  cases k <;> simp [State.transmit]
@[simp] theorem State.transmit_rtArmed (k : FrameKind) (q : Nat) : (s.transmit k q).rtArmed = s.rtArmed := by
  cases k <;> simp [State.transmit]
@[simp] theorem State.transmit_rtDelay (k : FrameKind) (q : Nat) : (s.transmit k q).rtDelay = s.rtDelay := by
  cases k <;> simp [State.transmit]
@[simp] theorem State.transmit_ackArmed (k : FrameKind) (q : Nat) : (s.transmit k q).ackArmed = false := by
  cases k <;> simp [State.transmit]
@[simp] theorem State.transmit_ackDelay (k : FrameKind) (q : Nat) : (s.transmit k q).ackDelay = s.ackDelay := by
  cases k <;> simp [State.transmit]
@[simp] theorem State.transmit_nakSuppressed (k : FrameKind) (q : Nat)
    : (s.transmit k q).nakSuppressed = (s.nakSuppressed || decide (k = .nak)) := by
  cases k <;> simp [State.transmit]
@[simp] theorem State.transmit_chanReady (k : FrameKind) (q : Nat) : (s.transmit k q).chanReady = false := by
  cases k <;> simp [State.transmit]
@[simp] theorem State.transmit_admEnable (k : FrameKind) (q : Nat) : (s.transmit k q).admEnable = s.admEnable := by
  cases k <;> simp [State.transmit]
@[simp] theorem State.transmit_err (k : FrameKind) (q : Nat) : (s.transmit k q).err = s.err := by
  cases k <;> simp [State.transmit]
@[simp] theorem State.transmit_phase (k : FrameKind) (q : Nat) : (s.transmit k q).phase = s.phase := by
  cases k <;> simp [State.transmit]
@[simp] theorem State.transmit_actions (k : FrameKind) (q : Nat)
    : (s.transmit k q).actions = s.actions ++ Action.tx (encodeFrame s.cfg (s.frameOf k q)) ::
      (if s.ackArmed then [.cancelAck] else []) := by
  cases k <;> simp [State.transmit] <;> split <;> rfl
@[simp] theorem State.transmit_cls (k : FrameKind) (q : Nat) : (s.transmit k q).cls = s.cls := by
  cases k <;> simp [State.transmit]
@[simp] theorem State.transmit_result (k : FrameKind) (q : Nat) : (s.transmit k q).result = s.result := by
  cases k <;> simp [State.transmit]
@[simp] theorem State.transmit_inputs (k : FrameKind) (q : Nat) : (s.transmit k q).inputs = s.inputs := by
  cases k <;> simp [State.transmit]
@[simp] theorem State.transmit_epoch (k : FrameKind) (q : Nat) : (s.transmit k q).epoch = s.epoch := by
  cases k <;> simp [State.transmit]

/-! ### resend -/

@[simp] theorem State.resend_cfg (q : Nat) : (s.resend q).cfg = s.cfg := by
  simp [State.resend]
@[simp] theorem State.resend_ackExpected (q : Nat) : (s.resend q).ackExpected = s.ackExpected := by
  simp [State.resend]
@[simp] theorem State.resend_nextToSend (q : Nat) : (s.resend q).nextToSend = s.nextToSend := by
  simp [State.resend]
@[simp] theorem State.resend_bufferedCount (q : Nat) : (s.resend q).bufferedCount = s.bufferedCount := by
  simp [State.resend]
@[simp] theorem State.resend_outbox (q : Nat) : (s.resend q).outbox = s.outbox := by
  simp [State.resend]
@[simp] theorem State.resend_expected (q : Nat) : (s.resend q).expected = s.expected := by
  simp [State.resend]
@[simp] theorem State.resend_tooFar (q : Nat) : (s.resend q).tooFar = s.tooFar := by
  simp [State.resend]
@[simp] theorem State.resend_arrived (q : Nat) : (s.resend q).arrived = s.arrived := by
  simp [State.resend]
@[simp] theorem State.resend_reassembly (q : Nat) : (s.resend q).reassembly = s.reassembly := by
  simp [State.resend]
@[simp] theorem State.resend_rtArmed (q : Nat) : (s.resend q).rtArmed = s.rtArmed.set (slot s.cfg q) true := by
  simp [State.resend]
@[simp] theorem State.resend_rtDelay (q : Nat) : (s.resend q).rtDelay = s.rtDelay.set (slot s.cfg q) s.cfg.tData := by
  simp [State.resend]
@[simp] theorem State.resend_ackArmed (q : Nat) : (s.resend q).ackArmed = false := by
  simp [State.resend]
@[simp] theorem State.resend_ackDelay (q : Nat) : (s.resend q).ackDelay = s.ackDelay := by
  simp [State.resend]
@[simp] theorem State.resend_nakSuppressed (q : Nat) : (s.resend q).nakSuppressed = s.nakSuppressed := by
  simp [State.resend]
@[simp] theorem State.resend_chanReady (q : Nat) : (s.resend q).chanReady = false := by
  simp [State.resend]
@[simp] theorem State.resend_admEnable (q : Nat) : (s.resend q).admEnable = s.admEnable := by
  simp [State.resend]
@[simp] theorem State.resend_err (q : Nat) : (s.resend q).err = s.err := by
  simp [State.resend]
@[simp] theorem State.resend_phase (q : Nat) : (s.resend q).phase = s.phase := by
  simp [State.resend]
@[simp] theorem State.resend_actions (q : Nat)
    : (s.resend q).actions = s.actions ++ Action.tx (encodeFrame s.cfg (s.frameOf .data q)) ::
      ((if s.ackArmed then [.cancelAck] else []) ++ [.armRt q s.cfg.tData]) := by
  simp [State.resend]
@[simp] theorem State.resend_cls (q : Nat) : (s.resend q).cls = s.cls := by
  simp [State.resend]
@[simp] theorem State.resend_result (q : Nat) : (s.resend q).result = s.result := by
  simp [State.resend]
@[simp] theorem State.resend_inputs (q : Nat) : (s.resend q).inputs = s.inputs := by
  simp [State.resend]
@[simp] theorem State.resend_epoch (q : Nat) : (s.resend q).epoch = s.epoch := by
  simp [State.resend]

/-! ### retire -/

@[simp] theorem State.retire_cfg : (s.retire).cfg = s.cfg := by
  simp [State.retire]
@[simp] theorem State.retire_ackExpected : (s.retire).ackExpected = inc s.cfg s.ackExpected := by
  simp [State.retire]
@[simp] theorem State.retire_nextToSend : (s.retire).nextToSend = s.nextToSend := by
  simp [State.retire]
@[simp] theorem State.retire_bufferedCount : (s.retire).bufferedCount = s.bufferedCount - 1 := by
  simp [State.retire]
@[simp] theorem State.retire_outbox : (s.retire).outbox = s.outbox := by
  simp [State.retire]
@[simp] theorem State.retire_expected : (s.retire).expected = s.expected := by
  simp [State.retire]
@[simp] theorem State.retire_tooFar : (s.retire).tooFar = s.tooFar := by
  simp [State.retire]
@[simp] theorem State.retire_arrived : (s.retire).arrived = s.arrived := by
  simp [State.retire]
@[simp] theorem State.retire_reassembly : (s.retire).reassembly = s.reassembly := by
  simp [State.retire]
@[simp] theorem State.retire_rtArmed : (s.retire).rtArmed = s.rtArmed.set (slot s.cfg s.ackExpected) false := by
  simp [State.retire]
@[simp] theorem State.retire_rtDelay : (s.retire).rtDelay = s.rtDelay := by
  simp [State.retire]
@[simp] theorem State.retire_ackArmed : (s.retire).ackArmed = s.ackArmed := by
  simp [State.retire]
@[simp] theorem State.retire_ackDelay : (s.retire).ackDelay = s.ackDelay := by
  simp [State.retire]
@[simp] theorem State.retire_nakSuppressed : (s.retire).nakSuppressed = s.nakSuppressed := by
  simp [State.retire]
@[simp] theorem State.retire_chanReady : (s.retire).chanReady = s.chanReady := by
  simp [State.retire]
@[simp] theorem State.retire_admEnable : (s.retire).admEnable = s.admEnable := by
  simp [State.retire]
@[simp] theorem State.retire_err : (s.retire).err = s.err := by
  simp [State.retire]
@[simp] theorem State.retire_phase : (s.retire).phase = s.phase := by
  simp [State.retire]
@[simp] theorem State.retire_actions
    : (s.retire).actions = if s.armedAt s.ackExpected then s.actions ++ [.cancelRt s.ackExpected] else s.actions := by
  simp [State.retire]
@[simp] theorem State.retire_cls : (s.retire).cls = s.cls := by
  simp [State.retire]
@[simp] theorem State.retire_result : (s.retire).result = s.result := by
  simp [State.retire]
@[simp] theorem State.retire_inputs : (s.retire).inputs = s.inputs := by
  simp [State.retire]
@[simp] theorem State.retire_epoch : (s.retire).epoch = s.epoch := by
  simp [State.retire]

/-! ### store -/

@[simp] theorem State.store_cfg (q : Nat) (p : Bytes) : (s.store q p).cfg = s.cfg := rfl
@[simp] theorem State.store_ackExpected (q : Nat) (p : Bytes) : (s.store q p).ackExpected = s.ackExpected := rfl
@[simp] theorem State.store_nextToSend (q : Nat) (p : Bytes) : (s.store q p).nextToSend = s.nextToSend := rfl
@[simp] theorem State.store_bufferedCount (q : Nat) (p : Bytes) : (s.store q p).bufferedCount = s.bufferedCount := rfl
@[simp] theorem State.store_outbox (q : Nat) (p : Bytes) : (s.store q p).outbox = s.outbox := rfl
@[simp] theorem State.store_expected (q : Nat) (p : Bytes) : (s.store q p).expected = s.expected := rfl
@[simp] theorem State.store_tooFar (q : Nat) (p : Bytes) : (s.store q p).tooFar = s.tooFar := rfl
@[simp] theorem State.store_arrived (q : Nat) (p : Bytes)
    : (s.store q p).arrived = s.arrived.set (slot s.cfg q) true := rfl
@[simp] theorem State.store_reassembly (q : Nat) (p : Bytes)
    : (s.store q p).reassembly = Memory.writeBytes s.reassembly (slot s.cfg q * s.cfg.fixedLen) p := rfl
@[simp] theorem State.store_rtArmed (q : Nat) (p : Bytes) : (s.store q p).rtArmed = s.rtArmed := rfl
@[simp] theorem State.store_rtDelay (q : Nat) (p : Bytes) : (s.store q p).rtDelay = s.rtDelay := rfl
@[simp] theorem State.store_ackArmed (q : Nat) (p : Bytes) : (s.store q p).ackArmed = s.ackArmed := rfl
@[simp] theorem State.store_ackDelay (q : Nat) (p : Bytes) : (s.store q p).ackDelay = s.ackDelay := rfl
@[simp] theorem State.store_nakSuppressed (q : Nat) (p : Bytes) : (s.store q p).nakSuppressed = s.nakSuppressed := rfl
@[simp] theorem State.store_chanReady (q : Nat) (p : Bytes) : (s.store q p).chanReady = s.chanReady := rfl
@[simp] theorem State.store_admEnable (q : Nat) (p : Bytes) : (s.store q p).admEnable = s.admEnable := rfl
@[simp] theorem State.store_err (q : Nat) (p : Bytes) : (s.store q p).err = s.err := rfl
@[simp] theorem State.store_phase (q : Nat) (p : Bytes) : (s.store q p).phase = s.phase := rfl
@[simp] theorem State.store_actions (q : Nat) (p : Bytes) : (s.store q p).actions = s.actions := rfl
@[simp] theorem State.store_cls (q : Nat) (p : Bytes) : (s.store q p).cls = s.cls := rfl
@[simp] theorem State.store_result (q : Nat) (p : Bytes) : (s.store q p).result = s.result := rfl
@[simp] theorem State.store_inputs (q : Nat) (p : Bytes) : (s.store q p).inputs = s.inputs := rfl
@[simp] theorem State.store_epoch (q : Nat) (p : Bytes) : (s.store q p).epoch = s.epoch := rfl

/-! ### advance -/

@[simp] theorem State.advance_cfg : (s.advance).cfg = s.cfg := rfl
@[simp] theorem State.advance_ackExpected : (s.advance).ackExpected = s.ackExpected := rfl
@[simp] theorem State.advance_nextToSend : (s.advance).nextToSend = s.nextToSend := rfl
@[simp] theorem State.advance_bufferedCount : (s.advance).bufferedCount = s.bufferedCount := rfl
@[simp] theorem State.advance_outbox : (s.advance).outbox = s.outbox := rfl
@[simp] theorem State.advance_expected : (s.advance).expected = inc s.cfg s.expected := rfl
@[simp] theorem State.advance_tooFar : (s.advance).tooFar = inc s.cfg s.tooFar := rfl
@[simp] theorem State.advance_arrived : (s.advance).arrived = s.arrived.set (slot s.cfg s.expected) false := rfl
@[simp] theorem State.advance_reassembly : (s.advance).reassembly = s.reassembly := rfl
@[simp] theorem State.advance_rtArmed : (s.advance).rtArmed = s.rtArmed := rfl
@[simp] theorem State.advance_rtDelay : (s.advance).rtDelay = s.rtDelay := rfl
@[simp] theorem State.advance_ackArmed : (s.advance).ackArmed = s.ackArmed := rfl
@[simp] theorem State.advance_ackDelay : (s.advance).ackDelay = s.ackDelay := rfl
@[simp] theorem State.advance_nakSuppressed : (s.advance).nakSuppressed = s.nakSuppressed := rfl
@[simp] theorem State.advance_chanReady : (s.advance).chanReady = s.chanReady := rfl
@[simp] theorem State.advance_admEnable : (s.advance).admEnable = s.admEnable := rfl
@[simp] theorem State.advance_err : (s.advance).err = s.err := rfl
@[simp] theorem State.advance_phase : (s.advance).phase = s.phase := rfl
@[simp] theorem State.advance_actions : (s.advance).actions = s.actions := rfl
@[simp] theorem State.advance_cls : (s.advance).cls = s.cls := rfl
@[simp] theorem State.advance_result : (s.advance).result = s.result := rfl
@[simp] theorem State.advance_inputs : (s.advance).inputs = s.inputs := rfl
@[simp] theorem State.advance_epoch : (s.advance).epoch = s.epoch := rfl

/-! ### deliver -/

@[simp] theorem State.deliver_cfg (x : Bytes) : (s.deliver x).cfg = s.cfg := by
  simp [State.deliver]
@[simp] theorem State.deliver_ackExpected (x : Bytes) : (s.deliver x).ackExpected = s.ackExpected := by
  simp [State.deliver]
@[simp] theorem State.deliver_nextToSend (x : Bytes) : (s.deliver x).nextToSend = s.nextToSend := by
  simp [State.deliver]
@[simp] theorem State.deliver_bufferedCount (x : Bytes) : (s.deliver x).bufferedCount = s.bufferedCount := by
  simp [State.deliver]
@[simp] theorem State.deliver_outbox (x : Bytes) : (s.deliver x).outbox = s.outbox := by
  simp [State.deliver]
@[simp] theorem State.deliver_expected (x : Bytes) : (s.deliver x).expected = s.expected := by
  simp [State.deliver]
@[simp] theorem State.deliver_tooFar (x : Bytes) : (s.deliver x).tooFar = s.tooFar := by
  simp [State.deliver]
@[simp] theorem State.deliver_arrived (x : Bytes) : (s.deliver x).arrived = s.arrived := by
  simp [State.deliver]
@[simp] theorem State.deliver_reassembly (x : Bytes) : (s.deliver x).reassembly = s.reassembly := by
  simp [State.deliver]
@[simp] theorem State.deliver_rtArmed (x : Bytes) : (s.deliver x).rtArmed = s.rtArmed := by
  simp [State.deliver]
@[simp] theorem State.deliver_rtDelay (x : Bytes) : (s.deliver x).rtDelay = s.rtDelay := by
  simp [State.deliver]
@[simp] theorem State.deliver_ackArmed (x : Bytes) : (s.deliver x).ackArmed = true := by
  simp [State.deliver]
@[simp] theorem State.deliver_ackDelay (x : Bytes) : (s.deliver x).ackDelay = s.cfg.tAck := by
  simp [State.deliver]
@[simp] theorem State.deliver_nakSuppressed (x : Bytes) : (s.deliver x).nakSuppressed = false := by
  simp [State.deliver]
@[simp] theorem State.deliver_chanReady (x : Bytes) : (s.deliver x).chanReady = s.chanReady := by
  simp [State.deliver]
@[simp] theorem State.deliver_admEnable (x : Bytes) : (s.deliver x).admEnable = s.admEnable := by
  simp [State.deliver]
@[simp] theorem State.deliver_err (x : Bytes) : (s.deliver x).err = s.err := by
  simp [State.deliver]
@[simp] theorem State.deliver_phase (x : Bytes) : (s.deliver x).phase = s.phase := by
  simp [State.deliver]
@[simp] theorem State.deliver_actions (x : Bytes)
    : (s.deliver x).actions = s.actions ++ [.deliver x, .armAck s.cfg.tAck] := by
  simp [State.deliver]
@[simp] theorem State.deliver_cls (x : Bytes) : (s.deliver x).cls = s.cls := by
  simp [State.deliver]
@[simp] theorem State.deliver_result (x : Bytes) : (s.deliver x).result = s.result := by
  simp [State.deliver]
@[simp] theorem State.deliver_inputs (x : Bytes) : (s.deliver x).inputs = s.inputs := by
  simp [State.deliver]
@[simp] theorem State.deliver_epoch (x : Bytes) : (s.deliver x).epoch = s.epoch := by
  simp [State.deliver]

/-! ### The memories after a slot write -/

@[simp] theorem State.mem_outbox : s.mem .outbox = s.outbox := rfl
@[simp] theorem State.mem_reassembly : s.mem .reassembly = s.reassembly := rfl
@[simp] theorem State.setMem_outbox_outbox (m : Memory) : (s.setMem .outbox m).outbox = m := rfl
@[simp] theorem State.setMem_reassembly_outbox (m : Memory) :
    (s.setMem .reassembly m).outbox = s.outbox := rfl
@[simp] theorem State.setMem_reassembly_reassembly (m : Memory) :
    (s.setMem .reassembly m).reassembly = m := rfl
@[simp] theorem State.setMem_outbox_reassembly (m : Memory) :
    (s.setMem .outbox m).reassembly = s.reassembly := rfl

/-- Reset is RESET run on the reference configuration, but for the count of resets. -/
theorem State.applyReset_reset :
    State.reset.applyReset = { State.reset with
      rtDelay := (List.range 64).map (Config.freeRtDelay 1), ackDelay := Config.freeAckDelay 1,
      epoch := 1 } := rfl

end Sys2Proof.Machine
end

