-- ==== Sys2Proof/Laws/Codec.lean ====
section
/-! SUPPORT. The codec's small facts, and that the parameterisation of the checksum loses nothing: every
checksum that obeys the zero-residue law is the closure of some function (R112; log 4). -/

namespace Sys2Proof

@[simp] theorem trailerBytes_length (v : CheckValue) : (trailerBytes v).length = 4 := rfl

@[simp] theorem Config.trailer_length (c : Config) (h : Bytes) : (c.trailer h).length = 4 := rfl

@[simp] theorem Frame.header_data_length (a q : Nat) (p : Bytes) :
    (Frame.data a q p).header.length = p.length + 3 := rfl

@[simp] theorem Frame.header_ack_length (a : Nat) : (Frame.ack a).header.length = 2 := rfl

@[simp] theorem Frame.header_nak_length (a : Nat) : (Frame.nak a).header.length = 2 := rfl

theorem wireByte_toNat {n : Nat} (h : n ≤ 255) : (wireByte n).toNat = n :=
  Nat.mod_eq_of_lt (by omega)

/-- Splitting a buffer into what is before its last four bytes and those four. -/
theorem take_append_drop_four (b : Bytes) :
    b.take (b.length - 4) ++ b.drop (b.length - 4) = b := List.take_append_drop _ _

/-- A checksum that obeys the zero-residue law is the closure of itself, with any fuel: so leaving
`Config.freeCheck` open leaves every lawful checksum open (R112). -/
theorem closedCheck_of_lawful {g : Bytes → CheckValue} (law : ∀ h, g (h ++ trailerBytes (g h)) = 0#32)
    (fuel : Nat) (b : Bytes) : closedCheck g fuel b = g b := by
  induction fuel generalizing b with
  | zero => rfl
  | succ n ih =>
    rw [closedCheck, ih]
    split
    · rename_i h
      have := law (b.take (b.length - 4))
      rw [← h.2, take_append_drop_four] at this
      exact this.symm
    · rfl

/-- An encodable instruction's table row is one of the thirteen with an encoding, less the two decode
results that are no frame (R88, R100). -/
def Instr.hasEncoding : Instr → Bool
  | .data _ _ _ => true
  | .ack _ => true
  | .nak _ => true
  | .malformed => false
  | .corrupt _ => false
  | .upperReady _ => true
  | .channelReady => true
  | .frameReceived _ => true
  | .retxTimeout _ => true
  | .ackTimeout => true
  | .reservedEvent0 => true
  | .reservedEvent6 => true
  | .reservedEvent7 => true
  | .encode _ _ _ _ => false
  | .decode _ => false
  | .inc _ => false
  | .slot _ => false
  | .between _ _ _ => false
  | .ackval => false
  | .armRt _ _ => false
  | .cancelRt _ => false
  | .armAck _ => false
  | .cancelAck => false
  | .submit _ => false
  | .transmit _ _ => false
  | .resend _ => false
  | .ackThrough _ => false
  | .nakResend _ => false
  | .onData _ _ => false
  | .sendAck => false
  | .sendNak => false
  | .rxCorrupt _ => false
  | .rxMalformed => false
  | .rxData _ _ _ => false
  | .rxNak _ => false
  | .rxAck _ => false
  | .admission => false
  | .step _ => false
  | .reset => true

end Sys2Proof
end

