-- ==== Sys2Proof/Laws/Link.lean ====
section
/-! SUPPORT. The small facts of a link: which end an update reaches, what an engine's move leaves, that a fresh
engine is right after reset, and runs cut in two. -/

namespace Sys2Proof.Machine

variable {l l' : Link} {d : Side}

@[simp] theorem Link.near_withEnds (l : Link) (d : Side) (n f : End) : (l.withEnds d n f).near d = n := by
  cases d <;> rfl

@[simp] theorem Link.far_withEnds (l : Link) (d : Side) (n f : End) : (l.withEnds d n f).far d = f := by
  cases d <;> rfl

@[simp] theorem Link.order_withEnds (l : Link) (d : Side) (n f : End) :
    (l.withEnds d n f).order = l.order := by
  cases d <;> rfl

@[simp] theorem Link.near_setInbound (l : Link) (d : Side) (fs : List Bytes) :
    (l.setInbound d fs).near d = { l.near d with inbound := fs } := Link.near_withEnds ..

@[simp] theorem Link.far_setInbound (l : Link) (d : Side) (fs : List Bytes) :
    (l.setInbound d fs).far d = l.far d := Link.far_withEnds ..

@[simp] theorem Link.order_setInbound (l : Link) (d : Side) (fs : List Bytes) :
    (l.setInbound d fs).order = l.order := Link.order_withEnds ..

@[simp] theorem Link.near_handOver (l : Link) (d : Side) (p : Bytes) (rest : List Bytes) :
    (l.handOver d p rest).near d =
      { l.near d with waiting := rest, submitted := (l.near d).submitted ++ [p] } :=
  Link.near_withEnds ..

@[simp] theorem Link.far_handOver (l : Link) (d : Side) (p : Bytes) (rest : List Bytes) :
    (l.handOver d p rest).far d = l.far d := Link.far_withEnds ..

@[simp] theorem Link.order_handOver (l : Link) (d : Side) (p : Bytes) (rest : List Bytes) :
    (l.handOver d p rest).order = l.order := Link.order_withEnds ..

/-- All an engine's move does: the engine takes one step on the event, its deliveries join its log, its frames
those in flight to the other end. -/
theorem Link.engineStep_cases {e : Event} (h : l.engineStep d e = some l') :
    ∃ t, (l.near d).engine.react e = .next t ∧
      l'.near d = { l.near d with
        engine := t,
        delivered := (l.near d).delivered ++ t.actions.filterMap Action.payload } ∧
      l'.far d = { l.far d with inbound := (l.far d).inbound ++ t.actions.filterMap Action.frame } ∧
      l'.order = l.order := by
  unfold Link.engineStep at h
  split at h
  · rename_i t ht
    cases h
    exact ⟨t, ht, Link.near_withEnds .., Link.far_withEnds .., Link.order_withEnds ..⟩
  · simp at h
  · simp at h

/-- A run of two parts is a run of the first and then of the second. -/
theorem Link.run_append (l : Link) (ms ms' : List LinkMove) :
    l.run (ms ++ ms') = (l.run ms).bind fun k => k.run ms' := by
  induction ms generalizing l with
  | nil => rfl
  | cons m ms ih =>
    simp only [List.cons_append, Link.run]
    cases l.move m with
    | none => rfl
    | some k => exact ih k

/-- What holds at the start and is kept by every move holds after every run. -/
theorem Link.run_induction {P : Link → Prop} (keep : ∀ k k' m, P k → k.move m = some k' → P k')
    {ms : List LinkMove} (h : P l) (hr : l.run ms = some l') : P l' := by
  induction ms generalizing l with
  | nil => cases hr; exact h
  | cons m ms ih =>
    rw [Link.run] at hr
    cases hm : l.move m with
    | none => simp [hm] at hr
    | some k => rw [hm] at hr; exact ih (keep _ _ _ h hm) hr

theorem State.fresh_afterReset (c : Config) (n : Nat) : (State.fresh c n).AfterReset := by
  constructor <;> simp [State.fresh, State.applyReset]

@[simp] theorem State.fresh_cfg (c : Config) (n : Nat) : (State.fresh c n).cfg = c := rfl

@[simp] theorem State.fresh_inputs (c : Config) (n : Nat) : (State.fresh c n).inputs = [] := rfl

theorem End.start_fresh {c : Config} (h : c.legal = true) (n : Nat) (ps : List Bytes) :
    (End.start c n ps).Fresh :=
  ⟨h, State.fresh_afterReset c n, rfl, rfl, rfl, rfl⟩

end Sys2Proof.Machine
end

