-- ==== Sys2Proof/Laws/Memory.lean ====
section
/-! SUPPORT. The buffer memories: a read after a write, what a write leaves alone, and that every operation on
a memory keeps its canonical form. -/

namespace Sys2Proof.Machine

/-! ### One cell -/

theorem Memory.read_write (m : Memory) (a b : Nat) (v : Byte) :
    (m.write a v).read b = if a = b then some v else m.read b := by
  induction m with
  | nil => simp [Memory.write, Memory.read]
  | cons x m ih =>
    obtain ⟨k, u⟩ := x
    simp only [Memory.write]
    split
    · simp only [Memory.read]
    · split
      · rename_i h
        subst h
        simp only [Memory.read]
        split <;> rfl
      · rename_i h
        simp only [Memory.read, ih]
        split
        · rename_i hk
          subst hk
          rw [if_neg h]
        · rfl

theorem Memory.read_write_same (m : Memory) (a : Nat) (v : Byte) : (m.write a v).read a = some v := by
  simp [Memory.read_write]

theorem Memory.read_write_other (m : Memory) {a b : Nat} (v : Byte) (h : a ≠ b) :
    (m.write a v).read b = m.read b := by
  simp [Memory.read_write, h]

theorem Memory.mem_write {m : Memory} {a : Nat} {v : Byte} {x : Host.Cell} (h : x ∈ m.write a v) :
    x = (a, v) ∨ x ∈ m := by
  induction m with
  | nil => simpa [Memory.write] using h
  | cons y m ih =>
    simp only [Memory.write] at h
    split at h
    · simpa using h
    · split at h
      · rcases List.mem_cons.mp h with h | h
        · exact .inl h
        · exact .inr (List.mem_cons_of_mem _ h)
      · rcases List.mem_cons.mp h with h | h
        · exact .inr (h ▸ List.mem_cons_self)
        · exact (ih h).imp id (List.mem_cons_of_mem _)

/-- A write keeps the canonical form. -/
theorem Memory.wf_write {m : Memory} (h : m.wf) (a : Nat) (v : Byte) : (m.write a v).wf := by
  induction m with
  | nil => simp [Memory.wf, Memory.write]
  | cons x m ih =>
    obtain ⟨k, u⟩ := x
    simp only [Memory.wf, List.map_cons, List.pairwise_cons] at h
    simp only [Memory.write]
    split
    · rename_i hak
      simp only [Memory.wf, List.map_cons, List.pairwise_cons, List.mem_cons]
      refine ⟨?_, h⟩
      rintro b (rfl | hb)
      · exact hak
      · exact Nat.lt_trans hak (h.1 b hb)
    · split
      · rename_i hak
        subst hak
        simpa only [Memory.wf, List.map_cons, List.pairwise_cons] using h
      · rename_i h1 h2
        simp only [Memory.wf, List.map_cons, List.pairwise_cons]
        refine ⟨?_, ih h.2⟩
        intro b hb
        obtain ⟨y, hy, rfl⟩ := List.mem_map.mp hb
        rcases Memory.mem_write hy with rfl | hy
        · show k < a
          omega
        · exact h.1 _ (List.mem_map_of_mem hy)

/-! ### Consecutive cells -/

theorem Memory.wf_writeBytes {m : Memory} (h : m.wf) (a : Nat) (p : Bytes) :
    (m.writeBytes a p).wf := by
  induction p generalizing m a with
  | nil => exact h
  | cons v p ih => exact ih (Memory.wf_write h a v) (a + 1)

theorem Memory.mem_writeBytes {m : Memory} {a : Nat} {p : Bytes} {x : Host.Cell}
    (h : x ∈ m.writeBytes a p) : (a ≤ x.1 ∧ x.1 < a + p.length) ∨ x ∈ m := by
  induction p generalizing m a with
  | nil => exact .inr h
  | cons v p ih =>
    rcases ih h with h | h
    · exact .inl ⟨by omega, by rw [List.length_cons]; omega⟩
    · rcases Memory.mem_write h with rfl | h
      · exact .inl ⟨Nat.le_refl _, by simp⟩
      · exact .inr h

/-- A write of consecutive cells leaves every other cell alone. -/
theorem Memory.read_writeBytes_outside (m : Memory) {a b : Nat} (p : Bytes)
    (h : b < a ∨ a + p.length ≤ b) : (m.writeBytes a p).read b = m.read b := by
  induction p generalizing m a with
  | nil => rfl
  | cons v p ih =>
    rw [List.length_cons] at h
    have h1 : b < a + 1 ∨ a + 1 + p.length ≤ b := by omega
    rw [Memory.writeBytes, ih _ h1, Memory.read_write_other _ _ (by omega)]

/-- A write of consecutive cells leaves the `k`-th byte written in the `k`-th cell. -/
theorem Memory.read_writeBytes_inside (m : Memory) (a : Nat) (p : Bytes) {k : Nat}
    (h : k < p.length) : (m.writeBytes a p).read (a + k) = some p[k] := by
  induction p generalizing m a k with
  | nil => simp at h
  | cons v p ih =>
    rw [Memory.writeBytes]
    cases k with
    | zero =>
      rw [Memory.read_writeBytes_outside _ _ (by omega)]
      simpa using Memory.read_write_same m a v
    | succ k =>
      have := ih (m.write a v) (a + 1) (k := k) (by simpa using h)
      rw [Nat.add_assoc, Nat.add_comm 1 k] at this
      simpa using this

/-! ### Slots (R60) -/

variable (s : State)

/-- Cells of different slots are different. -/
theorem slot_cells_apart {n i j k l : Nat} (hk : k < n) (hl : l < n) (h : i ≠ j) :
    i * n + k ≠ j * n + l := by
  intro he
  apply h
  have h1 : (i * n + k) / n = i := by
    rw [Nat.mul_comm, Nat.mul_add_div (by omega), Nat.div_eq_of_lt hk, Nat.add_zero]
  have h2 : (j * n + l) / n = j := by
    rw [Nat.mul_comm, Nat.mul_add_div (by omega), Nat.div_eq_of_lt hl, Nat.add_zero]
  rw [← h1, ← h2, he]

theorem State.byteAt_congr {s t : State} {sp : Space} (hm : t.mem sp = s.mem sp)
    (he : t.epoch = s.epoch) (a : Nat) : t.byteAt sp a = s.byteAt sp a := by
  simp [State.byteAt, hm, he]

theorem State.memRead_congr {s t : State} {sp : Space} (hm : t.mem sp = s.mem sp)
    (he : t.epoch = s.epoch) (hc : t.cfg.fixedLen = s.cfg.fixedLen) (i : Nat) :
    t.memRead sp i = s.memRead sp i := by
  simp [State.memRead, State.byteAt, hm, he, hc]

@[simp] theorem State.memRead_length (sp : Space) (i : Nat) :
    (s.memRead sp i).length = s.cfg.fixedLen := by
  simp [State.memRead]

@[simp] theorem State.mem_memWrite (sp : Space) (i : Nat) (p : Bytes) :
    (s.memWrite sp i p).mem sp = (s.mem sp).writeBytes (i * s.cfg.fixedLen) p := by
  cases sp <;> rfl

/-- A slot write leaves the other memory alone (R60). -/
theorem State.mem_memWrite_other {sp sp' : Space} (h : sp ≠ sp') (i : Nat) (p : Bytes) :
    (s.memWrite sp i p).mem sp' = s.mem sp' := by
  cases sp <;> cases sp' <;> first | exact absurd rfl h | rfl

/-- A slot write leaves every byte outside the slot alone. -/
theorem State.byteAt_memWrite_outside (sp : Space) (i : Nat) (p : Bytes) {a : Nat}
    (h : a < i * s.cfg.fixedLen ∨ i * s.cfg.fixedLen + p.length ≤ a) :
    (s.memWrite sp i p).byteAt sp a = s.byteAt sp a := by
  simp [State.byteAt, Memory.read_writeBytes_outside _ _ h]

/-- A packet written to a slot is read back from it (R60, R65). -/
theorem State.memRead_memWrite (sp : Space) (i : Nat) {p : Bytes} (h : p.length = s.cfg.fixedLen) :
    (s.memWrite sp i p).memRead sp i = p := by
  apply List.ext_getElem
  · simp [h]
  · intro k h1 h2
    simp [State.memRead, State.byteAt, Memory.read_writeBytes_inside _ _ p h2]

/-- A slot write leaves the memory's other slots alone (R60). -/
theorem State.memRead_memWrite_other (sp : Space) {i j : Nat} (hij : i ≠ j) {p : Bytes}
    (h : p.length = s.cfg.fixedLen) : (s.memWrite sp i p).memRead sp j = s.memRead sp j := by
  apply List.ext_getElem
  · simp
  · intro k h1 h2
    simp only [State.memRead_length, State.memWrite_cfg] at h1
    simp only [State.memRead, List.getElem_map, List.getElem_range, State.memWrite_cfg]
    apply State.byteAt_memWrite_outside
    rw [h]
    rcases Nat.lt_or_gt_of_ne hij with hij | hij
    · right
      have := Nat.mul_le_mul_right s.cfg.fixedLen (Nat.succ_le_of_lt hij)
      rw [Nat.succ_mul] at this
      omega
    · left
      have := Nat.mul_le_mul_right s.cfg.fixedLen (Nat.succ_le_of_lt hij)
      rw [Nat.succ_mul] at this
      omega

/-- Reset's memories have the canonical form. -/
theorem State.reset_memories_wf : Memory.wf State.reset.outbox ∧ Memory.wf State.reset.reassembly := by
  decide

end Sys2Proof.Machine
end

