-- ==== Sys2Proof/Laws/Ops.lean ====
section
/-! SUPPORT. One lemma per shared operation that says once everything it can change; the loops of ACK_THROUGH,
ON_DATA and RETX_TIMEOUT among them. -/

namespace Sys2Proof.Machine

variable (s : State)

/-! ### Classifications, errors and bits -/

theorem ErrBit.index_inj {a b : ErrBit} (h : a.index = b.index) : a = b := by
  cases a <;> cases b <;> first | rfl | exact absurd h (by decide)

/-- Raising an error sets its own bit and leaves the others alone (R33, R224). -/
theorem State.raise_errBit (b c : ErrBit) :
    (s.raise b).errBit c = (s.errBit c || decide (c = b)) := by
  cases b <;> cases c <;> simp [State.raise, State.errBit, ErrBit.index]

/-! ### ACK_THROUGH -/

/-- Everything ACK_THROUGH's loop can change: the lower edge, the count, the armed entries, the actions. -/
theorem State.retireWhile_shape (fuel a : Nat) :
    ∃ ae bc rt acts, State.retireWhile fuel a s =
      { s with ackExpected := ae, bufferedCount := bc, rtArmed := rt, actions := s.actions ++ acts } := by
  induction fuel generalizing s with
  | zero => exact ⟨s.ackExpected, s.bufferedCount, s.rtArmed, [], by simp [State.retireWhile]⟩
  | succ n ih =>
    rw [State.retireWhile]
    split
    · obtain ⟨ae, bc, rt, acts, h⟩ := ih s.retire
      refine ⟨ae, bc, rt,
        (if s.armedAt s.ackExpected then [.cancelRt s.ackExpected] else []) ++ acts, ?_⟩
      rw [h, State.retire_actions]
      by_cases hs : s.armedAt s.ackExpected <;>
        simp [hs, State.retire, State.cancelRt, State.disarmRt, State.emit]
    · exact ⟨s.ackExpected, s.bufferedCount, s.rtArmed, [], by simp⟩

/-- Everything ACK_THROUGH can change (R160). -/
theorem State.ackThrough_shape (a : Nat) :
    ∃ ae bc rt acts, s.ackThrough a =
      { s with ackExpected := ae, bufferedCount := bc, rtArmed := rt, actions := s.actions ++ acts } :=
  s.retireWhile_shape s.cfg.r a

/-- Outside the window ACK_THROUGH does nothing (R160 i). -/
theorem State.ackThrough_outside {a : Nat} (h : s.outstanding a = false) : s.ackThrough a = s := by
  rw [State.ackThrough, Config.r, State.retireWhile, h]
  rfl

@[simp] theorem State.ackThrough_cfg (a : Nat) : (s.ackThrough a).cfg = s.cfg := by
  obtain ⟨_, _, _, _, h⟩ := s.ackThrough_shape a; rw [h]
@[simp] theorem State.ackThrough_nextToSend (a : Nat) : (s.ackThrough a).nextToSend = s.nextToSend := by
  obtain ⟨_, _, _, _, h⟩ := s.ackThrough_shape a; rw [h]
@[simp] theorem State.ackThrough_outbox (a : Nat) : (s.ackThrough a).outbox = s.outbox := by
  obtain ⟨_, _, _, _, h⟩ := s.ackThrough_shape a; rw [h]
@[simp] theorem State.ackThrough_expected (a : Nat) : (s.ackThrough a).expected = s.expected := by
  obtain ⟨_, _, _, _, h⟩ := s.ackThrough_shape a; rw [h]
@[simp] theorem State.ackThrough_tooFar (a : Nat) : (s.ackThrough a).tooFar = s.tooFar := by
  obtain ⟨_, _, _, _, h⟩ := s.ackThrough_shape a; rw [h]
@[simp] theorem State.ackThrough_arrived (a : Nat) : (s.ackThrough a).arrived = s.arrived := by
  obtain ⟨_, _, _, _, h⟩ := s.ackThrough_shape a; rw [h]
@[simp] theorem State.ackThrough_reassembly (a : Nat) : (s.ackThrough a).reassembly = s.reassembly := by
  obtain ⟨_, _, _, _, h⟩ := s.ackThrough_shape a; rw [h]
@[simp] theorem State.ackThrough_rtDelay (a : Nat) : (s.ackThrough a).rtDelay = s.rtDelay := by
  obtain ⟨_, _, _, _, h⟩ := s.ackThrough_shape a; rw [h]
@[simp] theorem State.ackThrough_ackArmed (a : Nat) : (s.ackThrough a).ackArmed = s.ackArmed := by
  obtain ⟨_, _, _, _, h⟩ := s.ackThrough_shape a; rw [h]
@[simp] theorem State.ackThrough_ackDelay (a : Nat) : (s.ackThrough a).ackDelay = s.ackDelay := by
  obtain ⟨_, _, _, _, h⟩ := s.ackThrough_shape a; rw [h]
@[simp] theorem State.ackThrough_nakSuppressed (a : Nat)
    : (s.ackThrough a).nakSuppressed = s.nakSuppressed := by
  obtain ⟨_, _, _, _, h⟩ := s.ackThrough_shape a; rw [h]
@[simp] theorem State.ackThrough_chanReady (a : Nat) : (s.ackThrough a).chanReady = s.chanReady := by
  obtain ⟨_, _, _, _, h⟩ := s.ackThrough_shape a; rw [h]
@[simp] theorem State.ackThrough_admEnable (a : Nat) : (s.ackThrough a).admEnable = s.admEnable := by
  obtain ⟨_, _, _, _, h⟩ := s.ackThrough_shape a; rw [h]
@[simp] theorem State.ackThrough_err (a : Nat) : (s.ackThrough a).err = s.err := by
  obtain ⟨_, _, _, _, h⟩ := s.ackThrough_shape a; rw [h]
@[simp] theorem State.ackThrough_phase (a : Nat) : (s.ackThrough a).phase = s.phase := by
  obtain ⟨_, _, _, _, h⟩ := s.ackThrough_shape a; rw [h]
@[simp] theorem State.ackThrough_cls (a : Nat) : (s.ackThrough a).cls = s.cls := by
  obtain ⟨_, _, _, _, h⟩ := s.ackThrough_shape a; rw [h]
@[simp] theorem State.ackThrough_result (a : Nat) : (s.ackThrough a).result = s.result := by
  obtain ⟨_, _, _, _, h⟩ := s.ackThrough_shape a; rw [h]
@[simp] theorem State.ackThrough_inputs (a : Nat) : (s.ackThrough a).inputs = s.inputs := by
  obtain ⟨_, _, _, _, h⟩ := s.ackThrough_shape a; rw [h]
@[simp] theorem State.ackThrough_epoch (a : Nat) : (s.ackThrough a).epoch = s.epoch := by
  obtain ⟨_, _, _, _, h⟩ := s.ackThrough_shape a; rw [h]

/-! ### ON_DATA -/

/-- Everything the drain loop can change: the arrival bits and the two edges. -/
theorem State.drain_shape (fuel : Nat) :
    ∃ ar ex tf, (State.drain fuel s).1 = { s with arrived := ar, expected := ex, tooFar := tf } := by
  induction fuel generalizing s with
  | zero => exact ⟨s.arrived, s.expected, s.tooFar, rfl⟩
  | succ n ih =>
    rw [State.drain]
    split
    · obtain ⟨ar, ex, tf, h⟩ := ih s.advance
      exact ⟨ar, ex, tf, h⟩
    · exact ⟨s.arrived, s.expected, s.tooFar, rfl⟩

/-- The drain loop hands out at most as many payloads as it may run rounds. -/
theorem State.drain_length (fuel : Nat) : (State.drain fuel s).2.length ≤ fuel := by
  induction fuel generalizing s with
  | zero => exact Nat.le_refl 0
  | succ n ih =>
    rw [State.drain]
    split
    · simpa using ih s.advance
    · exact Nat.zero_le _

/-- Where nothing waits at `expected` the drain loop does nothing (R173 iii). -/
theorem State.drain_waiting (fuel : Nat) (h : s.arrivedAt s.expected = false) :
    State.drain fuel s = (s, []) := by
  cases fuel with
  | zero => rfl
  | succ n => rw [State.drain, h]; rfl

/-- Everything ON_DATA can change (R170). -/
theorem State.onData_shape (q : Nat) (p : Bytes) :
    ∃ m ar ex tf, (s.onData q p).state =
      { s with reassembly := m, arrived := ar, expected := ex, tooFar := tf } := by
  unfold State.onData
  split
  · split
    · exact ⟨s.reassembly, s.arrived, s.expected, s.tooFar, rfl⟩
    · obtain ⟨ar, ex, tf, h⟩ := State.drain_shape (s.store q p) s.cfg.w
      exact ⟨(s.store q p).reassembly, ar, ex, tf, h⟩
  · exact ⟨s.reassembly, s.arrived, s.expected, s.tooFar, rfl⟩

@[simp] theorem State.onData_state_cfg (q : Nat) (p : Bytes) : (s.onData q p).state.cfg = s.cfg := by
  obtain ⟨_, _, _, _, h⟩ := s.onData_shape q p; rw [h]
@[simp] theorem State.onData_state_ackExpected (q : Nat) (p : Bytes)
    : (s.onData q p).state.ackExpected = s.ackExpected := by
  obtain ⟨_, _, _, _, h⟩ := s.onData_shape q p; rw [h]
@[simp] theorem State.onData_state_nextToSend (q : Nat) (p : Bytes)
    : (s.onData q p).state.nextToSend = s.nextToSend := by
  obtain ⟨_, _, _, _, h⟩ := s.onData_shape q p; rw [h]
@[simp] theorem State.onData_state_bufferedCount (q : Nat) (p : Bytes)
    : (s.onData q p).state.bufferedCount = s.bufferedCount := by
  obtain ⟨_, _, _, _, h⟩ := s.onData_shape q p; rw [h]
@[simp] theorem State.onData_state_outbox (q : Nat) (p : Bytes)
    : (s.onData q p).state.outbox = s.outbox := by
  obtain ⟨_, _, _, _, h⟩ := s.onData_shape q p; rw [h]
@[simp] theorem State.onData_state_rtArmed (q : Nat) (p : Bytes)
    : (s.onData q p).state.rtArmed = s.rtArmed := by
  obtain ⟨_, _, _, _, h⟩ := s.onData_shape q p; rw [h]
@[simp] theorem State.onData_state_rtDelay (q : Nat) (p : Bytes)
    : (s.onData q p).state.rtDelay = s.rtDelay := by
  obtain ⟨_, _, _, _, h⟩ := s.onData_shape q p; rw [h]
@[simp] theorem State.onData_state_ackArmed (q : Nat) (p : Bytes)
    : (s.onData q p).state.ackArmed = s.ackArmed := by
  obtain ⟨_, _, _, _, h⟩ := s.onData_shape q p; rw [h]
@[simp] theorem State.onData_state_ackDelay (q : Nat) (p : Bytes)
    : (s.onData q p).state.ackDelay = s.ackDelay := by
  obtain ⟨_, _, _, _, h⟩ := s.onData_shape q p; rw [h]
@[simp] theorem State.onData_state_nakSuppressed (q : Nat) (p : Bytes)
    : (s.onData q p).state.nakSuppressed = s.nakSuppressed := by
  obtain ⟨_, _, _, _, h⟩ := s.onData_shape q p; rw [h]
@[simp] theorem State.onData_state_chanReady (q : Nat) (p : Bytes)
    : (s.onData q p).state.chanReady = s.chanReady := by
  obtain ⟨_, _, _, _, h⟩ := s.onData_shape q p; rw [h]
@[simp] theorem State.onData_state_admEnable (q : Nat) (p : Bytes)
    : (s.onData q p).state.admEnable = s.admEnable := by
  obtain ⟨_, _, _, _, h⟩ := s.onData_shape q p; rw [h]
@[simp] theorem State.onData_state_err (q : Nat) (p : Bytes) : (s.onData q p).state.err = s.err := by
  obtain ⟨_, _, _, _, h⟩ := s.onData_shape q p; rw [h]
@[simp] theorem State.onData_state_phase (q : Nat) (p : Bytes) : (s.onData q p).state.phase = s.phase := by
  obtain ⟨_, _, _, _, h⟩ := s.onData_shape q p; rw [h]
@[simp] theorem State.onData_state_actions (q : Nat) (p : Bytes)
    : (s.onData q p).state.actions = s.actions := by
  obtain ⟨_, _, _, _, h⟩ := s.onData_shape q p; rw [h]
@[simp] theorem State.onData_state_cls (q : Nat) (p : Bytes) : (s.onData q p).state.cls = s.cls := by
  obtain ⟨_, _, _, _, h⟩ := s.onData_shape q p; rw [h]
@[simp] theorem State.onData_state_result (q : Nat) (p : Bytes)
    : (s.onData q p).state.result = s.result := by
  obtain ⟨_, _, _, _, h⟩ := s.onData_shape q p; rw [h]
@[simp] theorem State.onData_state_inputs (q : Nat) (p : Bytes)
    : (s.onData q p).state.inputs = s.inputs := by
  obtain ⟨_, _, _, _, h⟩ := s.onData_shape q p; rw [h]
@[simp] theorem State.onData_state_epoch (q : Nat) (p : Bytes) : (s.onData q p).state.epoch = s.epoch := by
  obtain ⟨_, _, _, _, h⟩ := s.onData_shape q p; rw [h]

/-! ### The NAK-or-defer decision and deliveries -/

theorem State.nakOrDefer_cases (q : Nat) :
    (q ≠ s.expected ∧ s.nakSuppressed = false ∧ s.nakOrDefer q = s.sendNak) ∨
    ((q = s.expected ∨ s.nakSuppressed = true) ∧ s.nakOrDefer q = s.armAck s.cfg.tAck) := by
  unfold State.nakOrDefer
  by_cases h : q = s.expected <;> cases hn : s.nakSuppressed <;> simp [h]

/-- The actions of a list of deliveries (R186). -/
def deliveryActions (d : Nat) (out : List Bytes) : List Action :=
  out.flatMap fun x => [.deliver x, .armAck d]

/-- A list of deliveries: what each changes, said once (R186). -/
theorem State.deliver_foldl (out : List Bytes) :
    out.foldl State.deliver s =
      { s with
        nakSuppressed := s.nakSuppressed && out.isEmpty,
        ackArmed := s.ackArmed || !out.isEmpty,
        ackDelay := if out.isEmpty then s.ackDelay else s.cfg.tAck,
        actions := s.actions ++ deliveryActions s.cfg.tAck out } := by
  induction out generalizing s with
  | nil => simp [deliveryActions]
  | cons x out ih =>
    rw [List.foldl_cons, ih]
    simp [State.deliver, State.emit, State.allowNak, State.armAck, deliveryActions]

/-- RX_DATA never touches `nextToSend`, `outbox` and the parameters, sets no error bit and moves no input
(R186). -/
theorem State.rxData_shape (a q : Nat) (p : Bytes) :
    ∃ ae bc ex tf ar m rt aa ad ns cr acts, s.rxData a q p =
      { s with
        ackExpected := ae, bufferedCount := bc, expected := ex, tooFar := tf, arrived := ar,
        reassembly := m, rtArmed := rt, ackArmed := aa, ackDelay := ad, nakSuppressed := ns,
        chanReady := cr, actions := s.actions ++ acts, cls := ((s.nakOrDefer q).onData q p).cls } := by
  have hn : ∃ aa ad ns cr acts, s.nakOrDefer q =
      { s with
        ackArmed := aa, ackDelay := ad, nakSuppressed := ns, chanReady := cr,
        actions := s.actions ++ acts } := by
    rcases s.nakOrDefer_cases q with ⟨-, -, h⟩ | ⟨-, h⟩
    · refine ⟨false, s.ackDelay, true, false,
        Action.tx (encodeFrame s.cfg (s.frameOf .nak 0)) :: (if s.ackArmed then [.cancelAck] else []), ?_⟩
      rw [h, ← State.transmit_actions]
      cases ha : s.ackArmed <;>
        simp [State.sendNak, State.transmit, State.cancelAck, State.disarmAck, State.emit,
          State.noteTransmission, State.suppressNak, ha]
    · exact ⟨true, s.cfg.tAck, s.nakSuppressed, s.chanReady, [.armAck s.cfg.tAck], h⟩
  obtain ⟨aa, ad, ns, cr, acts, hn⟩ := hn
  unfold State.rxData
  generalize hx : s.nakOrDefer q = x
  obtain ⟨m, ar, ex, tf, ho⟩ := x.onData_shape q p
  obtain ⟨ae, bc, rt, acts', ht⟩ :=
    ((x.onData q p).out.foldl State.deliver ((x.onData q p).state.classify (x.onData q p).cls)).ackThrough_shape a
  dsimp only
  rw [ht, State.deliver_foldl, ho]
  rw [hn] at hx
  subst hx
  exact ⟨ae, bc, ex, tf, ar, m, rt, _, _, _, cr, _, by
    simp only [State.classify, List.append_assoc]; rfl⟩

/-! ### RETX_TIMEOUT -/

/-- Everything the stagger loop can change: the timer entries and the actions (R190). -/
theorem State.stagger_shape (q : Nat) (ds : List Nat) (k : Nat) :
    ∃ rt rd acts, State.stagger q ds k s =
      { s with rtArmed := rt, rtDelay := rd, actions := s.actions ++ acts } := by
  induction ds generalizing s k with
  | nil => exact ⟨s.rtArmed, s.rtDelay, [], by simp [State.stagger]⟩
  | cons d ds ih =>
    rw [State.stagger]
    split
    · obtain ⟨rt, rd, acts, h⟩ :=
        ih (s.armRt ((q + d) % s.cfg.r) (s.cfg.tLong + k * s.cfg.tStep)) (k + 1)
      refine ⟨rt, rd, .armRt ((q + d) % s.cfg.r) (s.cfg.tLong + k * s.cfg.tStep) :: acts, ?_⟩
      rw [h]
      simp [State.armRt, State.emit]
    · exact ih s k

@[simp] theorem State.stagger_cfg (q : Nat) (ds : List Nat) (k : Nat)
    : (State.stagger q ds k s).cfg = s.cfg := by
  obtain ⟨_, _, _, h⟩ := s.stagger_shape q ds k; rw [h]
@[simp] theorem State.stagger_ackExpected (q : Nat) (ds : List Nat) (k : Nat)
    : (State.stagger q ds k s).ackExpected = s.ackExpected := by
  obtain ⟨_, _, _, h⟩ := s.stagger_shape q ds k; rw [h]
@[simp] theorem State.stagger_nextToSend (q : Nat) (ds : List Nat) (k : Nat)
    : (State.stagger q ds k s).nextToSend = s.nextToSend := by
  obtain ⟨_, _, _, h⟩ := s.stagger_shape q ds k; rw [h]
@[simp] theorem State.stagger_bufferedCount (q : Nat) (ds : List Nat) (k : Nat)
    : (State.stagger q ds k s).bufferedCount = s.bufferedCount := by
  obtain ⟨_, _, _, h⟩ := s.stagger_shape q ds k; rw [h]
@[simp] theorem State.stagger_outbox (q : Nat) (ds : List Nat) (k : Nat)
    : (State.stagger q ds k s).outbox = s.outbox := by
  obtain ⟨_, _, _, h⟩ := s.stagger_shape q ds k; rw [h]
@[simp] theorem State.stagger_expected (q : Nat) (ds : List Nat) (k : Nat)
    : (State.stagger q ds k s).expected = s.expected := by
  obtain ⟨_, _, _, h⟩ := s.stagger_shape q ds k; rw [h]
@[simp] theorem State.stagger_tooFar (q : Nat) (ds : List Nat) (k : Nat)
    : (State.stagger q ds k s).tooFar = s.tooFar := by
  obtain ⟨_, _, _, h⟩ := s.stagger_shape q ds k; rw [h]
@[simp] theorem State.stagger_arrived (q : Nat) (ds : List Nat) (k : Nat)
    : (State.stagger q ds k s).arrived = s.arrived := by
  obtain ⟨_, _, _, h⟩ := s.stagger_shape q ds k; rw [h]
@[simp] theorem State.stagger_reassembly (q : Nat) (ds : List Nat) (k : Nat)
    : (State.stagger q ds k s).reassembly = s.reassembly := by
  obtain ⟨_, _, _, h⟩ := s.stagger_shape q ds k; rw [h]
@[simp] theorem State.stagger_ackArmed (q : Nat) (ds : List Nat) (k : Nat)
    : (State.stagger q ds k s).ackArmed = s.ackArmed := by
  obtain ⟨_, _, _, h⟩ := s.stagger_shape q ds k; rw [h]
@[simp] theorem State.stagger_ackDelay (q : Nat) (ds : List Nat) (k : Nat)
    : (State.stagger q ds k s).ackDelay = s.ackDelay := by
  obtain ⟨_, _, _, h⟩ := s.stagger_shape q ds k; rw [h]
@[simp] theorem State.stagger_nakSuppressed (q : Nat) (ds : List Nat) (k : Nat)
    : (State.stagger q ds k s).nakSuppressed = s.nakSuppressed := by
  obtain ⟨_, _, _, h⟩ := s.stagger_shape q ds k; rw [h]
@[simp] theorem State.stagger_chanReady (q : Nat) (ds : List Nat) (k : Nat)
    : (State.stagger q ds k s).chanReady = s.chanReady := by
  obtain ⟨_, _, _, h⟩ := s.stagger_shape q ds k; rw [h]
@[simp] theorem State.stagger_admEnable (q : Nat) (ds : List Nat) (k : Nat)
    : (State.stagger q ds k s).admEnable = s.admEnable := by
  obtain ⟨_, _, _, h⟩ := s.stagger_shape q ds k; rw [h]
@[simp] theorem State.stagger_err (q : Nat) (ds : List Nat) (k : Nat)
    : (State.stagger q ds k s).err = s.err := by
  obtain ⟨_, _, _, h⟩ := s.stagger_shape q ds k; rw [h]
@[simp] theorem State.stagger_phase (q : Nat) (ds : List Nat) (k : Nat)
    : (State.stagger q ds k s).phase = s.phase := by
  obtain ⟨_, _, _, h⟩ := s.stagger_shape q ds k; rw [h]
@[simp] theorem State.stagger_cls (q : Nat) (ds : List Nat) (k : Nat)
    : (State.stagger q ds k s).cls = s.cls := by
  obtain ⟨_, _, _, h⟩ := s.stagger_shape q ds k; rw [h]
@[simp] theorem State.stagger_result (q : Nat) (ds : List Nat) (k : Nat)
    : (State.stagger q ds k s).result = s.result := by
  obtain ⟨_, _, _, h⟩ := s.stagger_shape q ds k; rw [h]
@[simp] theorem State.stagger_inputs (q : Nat) (ds : List Nat) (k : Nat)
    : (State.stagger q ds k s).inputs = s.inputs := by
  obtain ⟨_, _, _, h⟩ := s.stagger_shape q ds k; rw [h]
@[simp] theorem State.stagger_epoch (q : Nat) (ds : List Nat) (k : Nat)
    : (State.stagger q ds k s).epoch = s.epoch := by
  obtain ⟨_, _, _, h⟩ := s.stagger_shape q ds k; rw [h]

end Sys2Proof.Machine
end

