-- ==== Sys2Proof/Laws/PerInstr.lean ====
section
/-! SUPPORT. The per-instruction family `Encodable`: which operations have an encoding (R100). -/

namespace Sys2Proof.Laws.Encodable

/-- An operation has an encoding exactly if its table row is a frame, an event or RESET (R100). -/
def Statement (i : Instr) : Prop := ∀ c : Config, (encode c i).isSome = i.hasEncoding

theorem data (a : Nat) (q : Nat) (p : Bytes) : Statement (.data a q p) := fun _ => rfl
theorem ack (a : Nat) : Statement (.ack a) := fun _ => rfl
theorem nak (a : Nat) : Statement (.nak a) := fun _ => rfl
theorem malformed : Statement (.malformed) := fun _ => rfl
theorem corrupt (x : Option Byte) : Statement (.corrupt x) := fun _ => rfl
theorem upperReady (p : Bytes) : Statement (.upperReady p) := fun _ => rfl
theorem channelReady : Statement (.channelReady) := fun _ => rfl
theorem frameReceived (b : Bytes) : Statement (.frameReceived b) := fun _ => rfl
theorem retxTimeout (q : Byte) : Statement (.retxTimeout q) := fun _ => rfl
theorem ackTimeout : Statement (.ackTimeout) := fun _ => rfl
theorem reservedEvent0 : Statement (.reservedEvent0) := fun _ => rfl
theorem reservedEvent6 : Statement (.reservedEvent6) := fun _ => rfl
theorem reservedEvent7 : Statement (.reservedEvent7) := fun _ => rfl
theorem encode (k : FrameKind) (a : Nat) (q : Nat) (p : Bytes) : Statement (.encode k a q p) := fun _ => rfl
theorem decode (b : Bytes) : Statement (.decode b) := fun _ => rfl
theorem inc (q : Nat) : Statement (.inc q) := fun _ => rfl
theorem slot (q : Nat) : Statement (.slot q) := fun _ => rfl
theorem between (a : Nat) (b : Nat) (d : Nat) : Statement (.between a b d) := fun _ => rfl
theorem ackval : Statement (.ackval) := fun _ => rfl
theorem armRt (q : Nat) (d : Nat) : Statement (.armRt q d) := fun _ => rfl
theorem cancelRt (q : Nat) : Statement (.cancelRt q) := fun _ => rfl
theorem armAck (d : Nat) : Statement (.armAck d) := fun _ => rfl
theorem cancelAck : Statement (.cancelAck) := fun _ => rfl
theorem submit (p : Bytes) : Statement (.submit p) := fun _ => rfl
theorem transmit (k : FrameKind) (q : Nat) : Statement (.transmit k q) := fun _ => rfl
theorem resend (q : Nat) : Statement (.resend q) := fun _ => rfl
theorem ackThrough (a : Nat) : Statement (.ackThrough a) := fun _ => rfl
theorem nakResend (a : Nat) : Statement (.nakResend a) := fun _ => rfl
theorem onData (q : Nat) (p : Bytes) : Statement (.onData q p) := fun _ => rfl
theorem sendAck : Statement (.sendAck) := fun _ => rfl
theorem sendNak : Statement (.sendNak) := fun _ => rfl
theorem rxCorrupt (b : Bytes) : Statement (.rxCorrupt b) := fun _ => rfl
theorem rxMalformed : Statement (.rxMalformed) := fun _ => rfl
theorem rxData (a : Nat) (q : Nat) (p : Bytes) : Statement (.rxData a q p) := fun _ => rfl
theorem rxNak (a : Nat) : Statement (.rxNak a) := fun _ => rfl
theorem rxAck (a : Nat) : Statement (.rxAck a) := fun _ => rfl
theorem admission : Statement (.admission) := fun _ => rfl
theorem step (e : Event) : Statement (.step e) := fun _ => rfl
theorem reset : Statement (.reset) := fun _ => rfl

end Sys2Proof.Laws.Encodable
end

