-- ==== Sys2Proof/Laws/Ring.lean ====
section
/-! SUPPORT. A legal configuration taken apart, and the small facts of the ring functions. -/

namespace Sys2Proof

/-- The constraints of R7 and R8, one by one. -/
theorem Config.legal_iff (c : Config) :
    c.legal = true ↔ 1 ≤ c.maxSeq ∧ c.maxSeq ≤ 255 ∧ c.maxSeq % 2 = 1 ∧ 2 * c.w = c.r ∧
      1 ≤ c.fixedLen ∧ c.dataLen ≤ c.rxMax := by
  simp [Config.legal, and_assoc]

variable {c : Config}

theorem Config.r_eq : c.r = c.maxSeq + 1 := rfl

theorem Config.r_pos : 0 < c.r := Nat.succ_pos _

theorem Config.two_w (h : c.legal = true) : 2 * c.w = c.r := ((Config.legal_iff c).mp h).2.2.2.1

theorem Config.w_pos (h : c.legal = true) : 0 < c.w := by
  have := Config.two_w h
  have := Config.r_pos (c := c)
  omega

theorem Config.w_lt_r (h : c.legal = true) : c.w < c.r := by
  have := Config.two_w h
  have := Config.w_pos h
  omega

namespace Machine

theorem inc_le (s : Nat) : inc c s ≤ c.maxSeq := Nat.lt_succ_iff.mp (Nat.mod_lt _ Config.r_pos)

theorem inc_of_lt {s : Nat} (h : s < c.maxSeq) : inc c s = s + 1 :=
  Nat.mod_eq_of_lt (Nat.succ_lt_succ h)

@[simp] theorem inc_maxSeq : inc c c.maxSeq = 0 := Nat.mod_self _

theorem slot_lt (h : c.legal = true) (s : Nat) : slot c s < c.w := Nat.mod_lt _ (Config.w_pos h)

theorem ackval_le (s : State) : s.ackval ≤ s.cfg.maxSeq :=
  Nat.lt_succ_iff.mp (Nat.mod_lt _ Config.r_pos)

@[simp] theorem between_empty (a b : Nat) : between a b a = false := by
  simp [between]

@[simp] theorem between_upper (a c : Nat) : between a c c = false := by
  simp [between]

theorem between_lower {a c : Nat} (h : a ≠ c) : between a a c = true := by
  simp [between]
  omega

end Machine

end Sys2Proof
end

