-- ==== Sys2Proof/Laws/Step.lean ====
section
/-! SUPPORT. What a step can do, said once: the inversion of `fetch`, of `decodeEvent` and of `step`. -/

namespace Sys2Proof.Machine

variable {s t : State}

theorem State.fetch_operation {x : Input} {rest : List Input} {i : Instr} (hl : s.cfg.legal = true)
    (hx : s.inputs = x :: rest) (hd : decodeInput s.cfg x = .ok i) :
    s.fetch = .operation i rest := by
  simp [State.fetch, hl, hx, hd]

theorem State.fetch_idle (hl : s.cfg.legal = true) (hx : s.inputs = []) : s.fetch = .idle := by
  simp [State.fetch, hl, hx]

/-- What a fetched operation was decoded from. -/
theorem State.fetch_cases :
    (s.cfg.legal = true ∧ s.inputs = [] ∧ s.fetch = .idle) ∨
    (∃ x rest i, s.cfg.legal = true ∧ s.inputs = x :: rest ∧ decodeInput s.cfg x = .ok i ∧
      s.fetch = .operation i rest) ∨
    (∃ r, s.fetch = .refused r) := by
  unfold State.fetch
  cases hl : s.cfg.legal
  · exact .inr (.inr ⟨_, rfl⟩)
  · cases hx : s.inputs with
    | nil => exact .inl ⟨rfl, rfl, rfl⟩
    | cons x rest =>
      cases hd : decodeInput s.cfg x with
      | ok i => exact .inr (.inl ⟨x, rest, i, rfl, rfl, hd, by simp [hd]⟩)
      | error e => exact .inr (.inr ⟨.unpresentableDescriptor, by simp [hd]⟩)

/-- A step that answers a next state either waited, or ran the decoded oldest input and returned from it. -/
theorem step_cases (h : step s = .next t) :
    (s.cfg.legal = true ∧ s.inputs = [] ∧ t = s.idle) ∨
    (∃ x rest i u, s.cfg.legal = true ∧ s.inputs = x :: rest ∧ decodeInput s.cfg x = .ok i ∧
      exec i (s.beginStep rest) = .next u ∧ t = u.finishStep) := by
  unfold step at h
  rcases State.fetch_cases (s := s) with ⟨hl, hx, hf⟩ | ⟨x, rest, i, hl, hx, hd, hf⟩ | ⟨r, hf⟩
  · rw [hf] at h
    exact .inl ⟨hl, hx, by simpa using h.symm⟩
  · rw [hf] at h
    dsimp only at h
    cases he : exec i (s.beginStep rest) with
    | next u =>
      rw [he] at h
      exact .inr ⟨x, rest, i, u, hl, hx, hd, he, by simpa [finishOutcome] using h.symm⟩
    | fault r => cases r
    | refused r => rw [he] at h; simp [finishOutcome] at h
  · rw [hf] at h
    simp at h

theorem event_codes : ∀ code : BitVec 3, code = 0#3 ∨ code = 1#3 ∨ code = 2#3 ∨ code = 3#3 ∨
    code = 4#3 ∨ code = 5#3 ∨ code = 6#3 ∨ code = 7#3 := by
  decide

/-- Which operation an input is: RESET, or the event its code selects (R201). -/
theorem decodeInput_cases {c : Config} {x : Input} {i : Instr} (h : decodeInput c x = .ok i) :
    (x = .reset ∧ i = .reset) ∨
    (∃ e, x = .event e ∧
      ((e.code = 0#3 ∧ i = .reservedEvent0) ∨ (e.code = 1#3 ∧ i = .upperReady e.data) ∨
       (e.code = 2#3 ∧ i = .channelReady) ∨
       (e.code = 3#3 ∧ c.buffer e.data = true ∧ i = .frameReceived e.data) ∨
       (e.code = 4#3 ∧ i = .retxTimeout e.seq) ∨ (e.code = 5#3 ∧ i = .ackTimeout) ∨
       (e.code = 6#3 ∧ i = .reservedEvent6) ∨ (e.code = 7#3 ∧ i = .reservedEvent7))) := by
  cases x with
  | reset => exact .inl ⟨rfl, by simpa [decodeInput] using h.symm⟩
  | event e =>
    refine .inr ⟨e, rfl, ?_⟩
    obtain ⟨code, seq, data⟩ := e
    simp only [decodeInput, decodeEvent] at h
    rcases event_codes code with rfl | rfl | rfl | rfl | rfl | rfl | rfl | rfl
    · simpa using h.symm
    · simpa using h.symm
    · simpa using h.symm
    · cases hb : c.buffer data
      · simp [hb] at h
      · simpa [hb] using h.symm
    · simpa using h.symm
    · simpa using h.symm
    · simpa using h.symm
    · simpa using h.symm

/-- The handler STEP selects is the one the decoder selects (R201): STEP is the decoded event's meaning
between `class <- NONE` and ADMISSION. -/
theorem handle_eq_exec {e : Event} {i : Instr} (h : decodeEvent s.cfg e = .ok i) :
    exec i s = .next (s.handle e) := by
  rcases decodeInput_cases (c := s.cfg) (x := .event e) h with ⟨hx, -⟩ | ⟨e', he, hcases⟩
  · cases hx
  · cases he
    rcases hcases with ⟨hc, rfl⟩ | ⟨hc, rfl⟩ | ⟨hc, rfl⟩ | ⟨hc, -, rfl⟩ | ⟨hc, rfl⟩ | ⟨hc, rfl⟩ |
      ⟨hc, rfl⟩ | ⟨hc, rfl⟩ <;> simp only [State.handle, hc] <;> rfl

end Sys2Proof.Machine
end

