-- ==== Sys2Proof/Tests/Slice0.lean ====
section
/-! SUPPORT. Tests: expected results are those of spec/95_test_vectors.md (cited by section) or worked by hand
from the rules. The last part gives, for every statement with hypotheses, a state and operands that meet
them together. -/

namespace Sys2Proof.Tests

open Sys2Proof Sys2Proof.Machine

/-- CFG-T of 95_test_vectors section 0, with numbers for the open delays. -/
def cfgT : Config where
  maxSeq := 7
  w := 4
  fixedLen := 4
  rxMax := 11
  ck := .jamcrc
  tData := 100
  tAck := 10
  tShort := 5
  tLong := 1000
  tStep := 7

/-- CFG-D: the defaults. -/
def cfgD : Config := { cfgT with maxSeq := 127, w := 64, fixedLen := 256, rxMax := 263 }

/-- Payload `Pn` of CFG-T. -/
def pkt (n : Nat) : Bytes := [0x50#8, 0x4B#8, 0x54#8, BitVec.ofNat 8 n]

def s0 : State := State.fresh cfgT 0

/-- The start of Program 3 (95_test_vectors Part 3): 6, 7, 0, 1 outstanding, the window full. -/
def full : State :=
  { s0 with
    ackExpected := 6, nextToSend := 2, bufferedCount := 4,
    outbox := Memory.writeBytes [] 0 (pkt 8 ++ pkt 9 ++ pkt 6 ++ pkt 7),
    rtArmed := [true, true, true, true], rtDelay := [100, 100, 100, 100], chanReady := true }

/-- Program 2 before step 5: sequences 1 and 2 wait for 0, suppression active. -/
def gap : State :=
  { s0 with
    arrived := [false, true, true, false],
    reassembly := Memory.writeBytes [] 4 (pkt 1 ++ pkt 2),
    ackArmed := true, ackDelay := 10, nakSuppressed := true }

/-- The channel is ready and admission open. -/
def ready : State := { s0 with chanReady := true, admEnable := true }

/-- Something holds of the state an operation or a step answers. -/
def after (o : Host.Outcome State Fault Refusal) (p : State → Bool) : Bool :=
  match o with
  | .next s => p s
  | .fault _ => false
  | .refused _ => false

def refusedWith (o : Host.Outcome State Fault Refusal) (r : Refusal) : Bool :=
  match o with
  | .next _ => false
  | .fault _ => false
  | .refused x => decide (x = r)

/-! ### Well-formedness refuses (one ill-formed term for each check) -/

theorem test_wf_refuses_wire : (Instr.data 8 0 (pkt 0)).wellFormed cfgT = false ∧
    (Instr.data 0 8 (pkt 0)).wellFormed cfgT = false ∧ (Instr.data 0 0 [0#8]).wellFormed cfgT = false ∧
    (Instr.ack 8).wellFormed cfgT = false ∧ (Instr.nak 8).wellFormed cfgT = false := by decide

theorem test_wf_refuses_buffers : (Instr.frameReceived (List.replicate 12 0#8)).wellFormed cfgT = false ∧
    (Instr.decode (List.replicate 12 0#8)).wellFormed cfgT = false ∧
    (Instr.rxCorrupt (List.replicate 12 0#8)).wellFormed cfgT = false ∧
    (Instr.step ⟨3#3, 0#8, List.replicate 12 0#8⟩).wellFormed cfgT = false := by decide

theorem test_wf_refuses_codec : (Instr.encode .ack 8 0 []).wellFormed cfgT = false ∧
    (Instr.encode .data 0 8 (pkt 0)).wellFormed cfgT = false ∧
    (Instr.encode .data 0 0 []).wellFormed cfgT = false := by decide

theorem test_wf_refuses_ring : (Instr.inc 8).wellFormed cfgT = false ∧
    (Instr.slot 8).wellFormed cfgT = false ∧ (Instr.between 8 0 0).wellFormed cfgT = false ∧
    (Instr.between 0 8 0).wellFormed cfgT = false ∧ (Instr.between 0 0 8).wellFormed cfgT = false := by decide

theorem test_wf_refuses_windows : (Instr.armRt 8 0).wellFormed cfgT = false ∧
    (Instr.cancelRt 8).wellFormed cfgT = false ∧ (Instr.submit []).wellFormed cfgT = false ∧
    (Instr.transmit .data 8).wellFormed cfgT = false ∧ (Instr.resend 8).wellFormed cfgT = false ∧
    (Instr.ackThrough 8).wellFormed cfgT = false ∧ (Instr.nakResend 8).wellFormed cfgT = false ∧
    (Instr.onData 8 (pkt 0)).wellFormed cfgT = false ∧ (Instr.onData 0 []).wellFormed cfgT = false := by
  decide

theorem test_wf_refuses_engine : (Instr.rxData 8 0 (pkt 0)).wellFormed cfgT = false ∧
    (Instr.rxData 0 8 (pkt 0)).wellFormed cfgT = false ∧ (Instr.rxData 0 0 []).wellFormed cfgT = false ∧
    (Instr.rxNak 8).wellFormed cfgT = false ∧ (Instr.rxAck 8).wellFormed cfgT = false := by decide

/-- R8: `W != R/2`, `R` odd, `R > 256`; R7: no payload, a receive buffer too small. -/
theorem test_illegal_configurations : Config.legal { cfgT with w := 3 } = false ∧
    Config.legal { cfgT with maxSeq := 6, w := 3 } = false ∧
    Config.legal { cfgT with maxSeq := 257, w := 129 } = false ∧
    Config.legal { cfgT with fixedLen := 0 } = false ∧ Config.legal { cfgT with rxMax := 10 } = false ∧
    cfgT.legal = true ∧ Config.reference.legal = true := by decide

/-! ### Checksum and decoding (95_test_vectors 2.1, 2.2, 2.3) -/

theorem test_check_vectors : crc32Jam [] = 0xFFFFFFFF#32 ∧
    crc32Jam [0x31#8, 0x32#8, 0x33#8, 0x34#8, 0x35#8, 0x36#8, 0x37#8, 0x38#8, 0x39#8] = 0x340BC6D9#32 ∧
    crc32Jam [0x02#8, 0x7F#8] = 0x4CAAE32F#32 ∧ crc32Jam [0xFF#8, 0xFF#8, 0xFF#8, 0xFF#8] = 0#32 := by
  decide +kernel

theorem test_decode_ack : decodeWire cfgT [0x02#8, 0x05#8, 0x0D#8, 0x7B#8, 0x7A#8, 0xFC#8] = .ack 5 := by
  decide +kernel

theorem test_decode_nak : decodeWire cfgT [0x03#8, 0x07#8, 0x60#8, 0x2B#8, 0x6F#8, 0x0B#8] = .nak 7 := by
  decide +kernel

theorem test_decode_data : decodeWire cfgT [0x01#8, 0x00#8, 0x07#8, 0x50#8, 0x4B#8, 0x54#8, 0x07#8, 0x55#8,
    0x97#8, 0xB5#8, 0x81#8] = .data 0 7 (pkt 7) := by
  decide +kernel

/-- kind 4, `ack = 8 > MAX_SEQ`, an ACK of seven bytes, DATA of six, `seq = 8`: all checksum-valid. -/
theorem test_decode_malformed :
    decodeWire cfgT [0x04#8, 0x05#8, 0x8B#8, 0xDC#8, 0x20#8, 0xAA#8] = .malformed ∧
    decodeWire cfgT [0x02#8, 0x08#8, 0xB0#8, 0x07#8, 0xCB#8, 0x82#8] = .malformed ∧
    decodeWire cfgT [0x02#8, 0x05#8, 0x00#8, 0xC6#8, 0x06#8, 0x4D#8, 0x7E#8] = .malformed ∧
    decodeWire cfgT [0x01#8, 0x07#8, 0xE2#8, 0x49#8, 0x59#8, 0x39#8] = .malformed ∧
    decodeWire cfgT [0x01#8, 0x07#8, 0x08#8, 0x50#8, 0x4B#8, 0x54#8, 0x00#8, 0x9F#8, 0xA5#8, 0x84#8,
      0x80#8] = .malformed := by
  decide +kernel

/-- Length is tested before the checksum (`FF FF FF FF` verifies); a flipped bit; no claimed sequence. -/
theorem test_decode_corrupt :
    decodeWire cfgT [0xFF#8, 0xFF#8, 0xFF#8, 0xFF#8] = .corrupt (some 0xFF#8) ∧
    decodeWire cfgT [0x02#8, 0x05#8, 0x0D#8, 0x7B#8, 0x7A#8, 0x7C#8] = .corrupt (some 0x0D#8) ∧
    decodeWire cfgT [0x01#8, 0x07#8] = .corrupt none := by
  decide +kernel

/-- The codes of R90 and R92; `seq` and `data` are ignored where the event does not use them. -/
theorem test_decode_events :
    decodeEvent cfgT ⟨0#3, 1#8, []⟩ = .ok .reservedEvent0 ∧
    decodeEvent cfgT ⟨1#3, 1#8, pkt 3⟩ = .ok (.upperReady (pkt 3)) ∧
    decodeEvent cfgT ⟨2#3, 1#8, [1#8]⟩ = .ok .channelReady ∧
    decodeEvent cfgT ⟨3#3, 1#8, [2#8]⟩ = .ok (.frameReceived [2#8]) ∧
    decodeEvent cfgT ⟨4#3, 200#8, [1#8]⟩ = .ok (.retxTimeout 200#8) ∧
    decodeEvent cfgT ⟨5#3, 1#8, [1#8]⟩ = .ok .ackTimeout ∧
    decodeEvent cfgT ⟨6#3, 1#8, []⟩ = .ok .reservedEvent6 ∧
    decodeEvent cfgT ⟨7#3, 1#8, []⟩ = .ok .reservedEvent7 ∧
    decodeEvent cfgT ⟨3#3, 0#8, List.replicate 12 0#8⟩ = .error .oversizeBuffer ∧
    decodeInput cfgT .reset = .ok .reset := by decide

theorem test_table_words : decodeTableWord 8 2 = some .channelReady ∧
    decodeTableWord 8 5 = some .ackTimeout ∧ decodeTableWord 8 7 = some .reservedEvent7 ∧
    decodeTableWord 48 0x0502 = some (.ack 5) ∧ decodeTableWord 48 3 = some (.nak 0) := by
  decide +kernel

/-- A table word placed at reset is what the next step runs. -/
theorem test_fetch_word_runs :
    after (step (State.reset.withFetchWord 8 2)) (fun t => t.chanReady && t.admEnable) = true ∧
    after (step (State.reset.withFetchWord 8 6)) (fun t => decide (t.err = 8#4)) = true ∧
    after (step (State.reset.withFetchWord 48 0x7F02)) (fun t => decide (t.cls = .ack)) = true := by
  decide +kernel

/-! ### Wire rows and the branches of FRAME_RECEIVED -/

/-- Program 2 step 1: `seq = 1` is not expected, so a NAK goes out and the frame is stored. -/
theorem test_data_out_of_order : after (exec (.data 7 1 (pkt 1)) s0) (fun t =>
    decide (t.actions = [.tx [0x03#8, 0x07#8, 0x60#8, 0x2B#8, 0x6F#8, 0x0B#8]] ∧ t.cls = .dataAccepted ∧
      t.arrived = [false, true, false, false] ∧ t.nakSuppressed = true)) = true := by
  decide +kernel

/-- Program 2 step 5: three deliveries in one step, the deferral restarted each time. -/
theorem test_rxData_drains : after (exec (.rxData 7 0 (pkt 0)) gap) (fun t =>
    decide (t.actions = [.armAck 10, .deliver (pkt 0), .armAck 10, .deliver (pkt 1), .armAck 10,
        .deliver (pkt 2), .armAck 10] ∧
      t.expected = 3 ∧ t.tooFar = 7 ∧ t.arrived = [false, false, false, false] ∧
      t.nakSuppressed = false)) = true := by
  decide +kernel

/-- Program 1 step 23. -/
theorem test_ack_across_wrap : after (exec (.ack 0) full) (fun t =>
    decide (t.actions = [.cancelRt 6, .cancelRt 7, .cancelRt 0] ∧ t.ackExpected = 1 ∧
      t.bufferedCount = 1 ∧ t.rtArmed = [false, true, false, false])) = true := by decide

theorem test_rxAck_stale : after (exec (.rxAck 5) full) (fun t =>
    decide (t.cls = .ack ∧ t.actions = [] ∧ t.ackExpected = 6)) = true := by decide

/-- Program 3 step 2: the successor of the NAK's `ack` field is resent, then 6 is retired. -/
theorem test_nak_fast_path : after (exec (.nak 6) full) (fun t =>
    decide (t.actions = [.tx [0x01#8, 0x07#8, 0x07#8, 0x50#8, 0x4B#8, 0x54#8, 0x07#8, 0xED#8, 0xA7#8,
        0xB0#8, 0x9C#8], .armRt 7 100, .cancelRt 6] ∧ t.ackExpected = 7 ∧ t.bufferedCount = 3)) = true := by
  decide +kernel

theorem test_rxNak_not_outstanding : after (exec (.rxNak 3) full) (fun t =>
    decide (t.cls = .nak ∧ t.actions = [] ∧ t.bufferedCount = 4)) = true := by decide

theorem test_malformed_recorded : after (exec .malformed s0) (fun t =>
    decide (t.err = 2#4 ∧ t.cls = .malformed ∧ t.actions = [])) = true := by decide

theorem test_rxMalformed_keeps_other_bits : after (exec .rxMalformed { s0 with err := 4#4 }) (fun t =>
    decide (t.err = 6#4)) = true := by decide

/-- Program 4 step 3: suppression is on but the claimed sequence is `expected`. -/
theorem test_corrupt_claims_expected : after (exec (.corrupt (some 0#8)) gap) (fun t =>
    decide (t.actions = [.tx [0x03#8, 0x07#8, 0x60#8, 0x2B#8, 0x6F#8, 0x0B#8], .cancelAck] ∧
      t.ackArmed = false)) = true := by
  decide +kernel

/-- Program 4 step 4: a buffer of two bytes claims nothing. -/
theorem test_rxCorrupt_short_defers : after (exec (.rxCorrupt [0x01#8, 0x07#8]) gap) (fun t =>
    decide (t.actions = [.armAck 10] ∧ t.cls = .corrupt)) = true := by decide

/-! ### Events -/

/-- Program 1 step 2. -/
theorem test_upperReady_sends : after (exec (.upperReady (pkt 0)) ready) (fun t =>
    decide (t.actions = [.tx [0x01#8, 0x07#8, 0x00#8, 0x50#8, 0x4B#8, 0x54#8, 0x00#8, 0x5E#8, 0xEE#8,
        0xF4#8, 0xB0#8], .armRt 0 100] ∧ t.nextToSend = 1 ∧ t.bufferedCount = 1 ∧
      t.chanReady = false)) = true := by
  decide +kernel

/-- Program 3 step 8, and 2.8: a packet of the wrong length is tested first. -/
theorem test_upperReady_refused : after (exec (.upperReady (pkt 10)) s0) (fun t =>
      decide (t.err = 1#4 ∧ t.bufferedCount = 0 ∧ t.actions = [])) = true ∧
    after (exec (.upperReady [0#8]) s0) (fun t => decide (t.err = 8#4)) = true := by decide

theorem test_channelReady_sets_flag :
    after (exec .channelReady s0) (fun t => t.chanReady && !t.admEnable) = true := by decide

/-- Program 4 step 5. -/
theorem test_frameReceived_malformed :
    after (exec (.frameReceived [0x04#8, 0x05#8, 0x8B#8, 0xDC#8, 0x20#8, 0xAA#8]) s0) (fun t =>
      decide (t.cls = .malformed ∧ t.err = 2#4 ∧ t.actions = [])) = true := by
  decide +kernel

/-- Program 2 step 7's frame at the state of Program 2's end: outside the window, a NAK goes out. -/
theorem test_frameReceived_out_of_window :
    after (exec (.frameReceived [0x01#8, 0x07#8, 0x00#8, 0x50#8, 0x4B#8, 0x54#8, 0x00#8, 0x5E#8, 0xEE#8,
      0xF4#8, 0xB0#8]) { s0 with expected := 3, tooFar := 7 }) (fun t =>
      decide (t.cls = .dataOow ∧
        t.actions = [.tx [0x03#8, 0x02#8, 0xEF#8, 0xDF#8, 0x05#8, 0x7B#8]])) = true := by
  decide +kernel

/-- R191's example. -/
theorem test_retx_staggers : after (exec (.retxTimeout 7#8) full) (fun t =>
    decide (t.actions.tail = [.armRt 7 100, .armRt 0 5, .armRt 1 1000, .armRt 6 1007] ∧
      t.rtDelay = [5, 1000, 1007, 100] ∧ t.chanReady = false)) = true := by decide

/-- 2.8: the newest outstanding sequence has no successor to re-arm. -/
theorem test_retx_newest : after (exec (.retxTimeout 1#8) full) (fun t =>
    decide (t.actions.tail = [.armRt 1 100, .armRt 6 1000, .armRt 7 1007, .armRt 0 1014])) = true := by decide

/-- Program 2 step 6: no CANCEL_ACK, the timer had fired. -/
theorem test_ackTimeout_sends : after (exec .ackTimeout
    { s0 with expected := 3, tooFar := 7, ackArmed := true }) (fun t =>
    decide (t.actions = [.tx [0x02#8, 0x02#8, 0xAE#8, 0xEE#8, 0x1E#8, 0x62#8]] ∧ t.ackArmed = false)) =
    true := by
  decide +kernel

theorem test_ackTimeout_spurious : after (exec .ackTimeout s0) (fun t =>
    decide (t.err = 4#4 ∧ t.actions = [])) = true := by decide

theorem test_reserved_codes : after (exec .reservedEvent0 s0) (fun t => decide (t.err = 8#4)) = true ∧
    after (exec .reservedEvent6 s0) (fun t => decide (t.err = 8#4)) = true ∧
    after (exec .reservedEvent7 s0) (fun t => decide (t.err = 8#4)) = true := by decide

/-! ### Codec and ring -/

/-- 2.2: `DATA(ack=3, seq=5, P9)`. -/
theorem test_encode_data : after (exec (.encode .data 3 5 (pkt 9)) s0) (fun t =>
    decide (t.result = .bytes [0x01#8, 0x03#8, 0x05#8, 0x50#8, 0x4B#8, 0x54#8, 0x09#8, 0x9C#8, 0x9B#8,
      0x59#8, 0x9A#8])) = true := by
  decide +kernel

/-- 2.2, CFG-D: `DATA(ack=1, seq=2, 00 01 .. FF)` ends `FC 8B E8 1A`. -/
theorem test_encode_data_default :
    (encodeFrame cfgD (.data 1 2 ((List.range 256).map (BitVec.ofNat 8)))).drop 259 =
      [0xFC#8, 0x8B#8, 0xE8#8, 0x1A#8] := by
  decide +kernel

/-- 2.3: the same buffer is Ack(8) in CFG-D and malformed in CFG-T. -/
theorem test_decode_operation : after (exec (.decode [0x02#8, 0x08#8, 0xB0#8, 0x07#8, 0xCB#8, 0x82#8])
      { s0 with cfg := cfgD }) (fun t => decide (t.result = .frame (.ack 8))) = true ∧
    after (exec (.decode [0x02#8, 0x08#8, 0xB0#8, 0x07#8, 0xCB#8, 0x82#8]) s0) (fun t =>
      decide (t.result = .frame .malformedFrame)) = true := by
  decide +kernel

theorem test_inc_wraps : after (exec (.inc 7) s0) (fun t => decide (t.result = .ring 0)) = true := by decide

theorem test_slot_upper_half : after (exec (.slot 7) s0) (fun t => decide (t.result = .ring 3)) = true := by
  decide

/-- 2.4, R = 8. -/
theorem test_between_vectors : between 0 0 0 = false ∧ between 0 0 1 = true ∧ between 0 1 1 = false ∧
    between 2 5 6 = true ∧ between 6 6 2 = true ∧ between 6 7 2 = true ∧ between 6 0 2 = true ∧
    between 6 2 2 = false ∧ between 6 5 2 = false ∧ between 3 3 2 = true ∧ between 7 7 0 = true ∧
    between 7 0 0 = false := by decide

theorem test_between_operation :
    after (exec (.between 6 1 2) s0) (fun t => decide (t.result = .truth true)) = true := by decide

theorem test_ackval_at_reset : after (exec .ackval s0) (fun t => decide (t.result = .ring 7)) = true := by
  decide

/-! ### Timer Set (2.7) -/

theorem test_armRt_replaces : after (exec (.armRt 5 9) full) (fun t =>
    decide (t.rtDelay = [100, 9, 100, 100] ∧ t.actions = [.armRt 5 9])) = true := by decide

theorem test_cancelRt : after (exec (.cancelRt 4) full) (fun t =>
      decide (t.rtArmed = [false, true, true, true] ∧ t.actions = [.cancelRt 4])) = true ∧
    after (exec (.cancelRt 4) s0) (fun t => decide (t.actions = [])) = true := by decide

theorem test_armAck_restarts : after (exec (.armAck 3) gap) (fun t =>
    decide (t.ackArmed = true ∧ t.ackDelay = 3 ∧ t.actions = [.armAck 3])) = true := by decide

theorem test_cancelAck : after (exec .cancelAck gap) (fun t =>
      decide (t.ackArmed = false ∧ t.actions = [.cancelAck])) = true ∧
    after (exec .cancelAck s0) (fun t => decide (t.actions = [])) = true := by decide

/-! ### Sender and Receiver Window (2.5, 2.6) -/

theorem test_submit_wraps : after (exec (.submit (pkt 5)) { s0 with nextToSend := 7, ackExpected := 7 })
    (fun t => decide (t.nextToSend = 0 ∧ t.bufferedCount = 1 ∧ t.result = .ring 7 ∧
      t.memRead .outbox 3 = pkt 5)) = true := by decide

/-- 2.5: `expected = 3`, the timer armed, `TRANSMIT(NAK)`. -/
theorem test_transmit_nak : after (exec (.transmit .nak 0)
    { s0 with expected := 3, tooFar := 7, ackArmed := true }) (fun t =>
    decide (t.actions = [.tx [0x03#8, 0x02#8, 0xEF#8, 0xDF#8, 0x05#8, 0x7B#8], .cancelAck] ∧
      t.nakSuppressed = true)) = true := by
  decide +kernel

theorem test_resend : after (exec (.resend 1) full) (fun t =>
    decide (t.actions = [.tx [0x01#8, 0x07#8, 0x01#8, 0x50#8, 0x4B#8, 0x54#8, 0x09#8, 0x4A#8, 0x7F#8,
      0x48#8, 0xF4#8], .armRt 1 100])) = true := by
  decide +kernel

theorem test_ackThrough_whole_window : after (exec (.ackThrough 1) full) (fun t =>
    decide (t.ackExpected = 2 ∧ t.bufferedCount = 0 ∧
      t.actions = [.cancelRt 6, .cancelRt 7, .cancelRt 0, .cancelRt 1])) = true := by decide

theorem test_ackThrough_upper_edge : after (exec (.ackThrough 2) full) (fun t =>
    decide (t.ackExpected = 6 ∧ t.bufferedCount = 4 ∧ t.actions = [] ∧ t.rtArmed = full.rtArmed)) = true := by
  decide

theorem test_nakResend : after (exec (.nakResend 7) full) (fun t =>
      decide (t.actions.tail = [.armRt 0 100])) = true ∧
    after (exec (.nakResend 1) full) (fun t => decide (t.actions = [])) = true := by decide

/-- 2.6: a drain across the wrap. -/
theorem test_onData_wrap : after (exec (.onData 6 (pkt 6))
    { s0 with expected := 6, tooFar := 2, arrived := [false, false, false, true],
              reassembly := Memory.writeBytes [] 12 (pkt 7) }) (fun t =>
    decide (t.result = .delivered [pkt 6, pkt 7] .dataAccepted ∧ t.expected = 0 ∧ t.tooFar = 4 ∧
      t.arrived = [false, false, false, false])) = true := by decide

/-- 2.6 and Program 2 step 3: the first payload is kept. -/
theorem test_onData_duplicate : after (exec (.onData 1 (pkt 11)) gap) (fun t =>
    decide (t.result = .delivered [] .dataDup ∧ t.memRead .reassembly 1 = pkt 1)) = true := by decide

theorem test_sendAck : after (exec .sendAck { s0 with expected := 3, tooFar := 7 }) (fun t =>
    decide (t.actions = [.tx [0x02#8, 0x02#8, 0xAE#8, 0xEE#8, 0x1E#8, 0x62#8]] ∧
      t.nakSuppressed = false)) = true := by
  decide +kernel

theorem test_sendNak : after (exec .sendNak s0) (fun t =>
    decide (t.actions = [.tx [0x03#8, 0x07#8, 0x60#8, 0x2B#8, 0x6F#8, 0x0B#8]] ∧
      t.nakSuppressed = true)) = true := by
  decide +kernel

/-! ### ADMISSION, STEP, RESET and the step -/

/-- A full window keeps the gate shut (Program 1 step 9). -/
theorem test_admission : after (exec .admission full) (fun t => !t.admEnable) = true ∧
    after (exec .admission { full with bufferedCount := 3 }) (fun t => t.admEnable) = true := by decide

theorem test_step_operation : after (exec (.step ⟨2#3, 0#8, []⟩) { s0 with cls := .nak }) (fun t =>
    decide (t.chanReady = true ∧ t.admEnable = true ∧ t.cls = .none)) = true := by decide

theorem test_reset_clears : after (exec .reset { full with err := 15#4 }) (fun t =>
    decide (t.ackExpected = 0 ∧ t.err = 0#4 ∧ t.tooFar = 4 ∧ t.rtArmed = [false, false, false, false] ∧
      t.outbox = [] ∧ t.cfg = cfgT)) = true := by decide

/-- Scenario D step 129: the channel is ready but the window is full. -/
theorem test_step_window_full : after (step { full with inputs := [.event ⟨2#3, 0#8, []⟩] }) (fun t =>
    decide (t.chanReady = true ∧ t.admEnable = false ∧ t.inputs = [] ∧ t.phase = .wait)) = true := by decide

theorem test_step_refusals :
    refusedWith (step { s0 with cfg := { cfgT with w := 3 } }) .illegalConfiguration = true ∧
    refusedWith (step { s0 with inputs := [.event ⟨3#3, 0#8, List.replicate 12 0#8⟩] })
      .unpresentableDescriptor = true := by decide

/-! ### Witnesses: every statement with hypotheses has a state and operands that meet them together -/

theorem full_shaped : full.Shaped := ⟨rfl, rfl, rfl⟩
theorem full_ring : full.RingRegs := by constructor <;> decide
theorem full_sender : full.SenderInv := ⟨rfl, by decide⟩
theorem full_timers : full.TimerInv := by unfold State.TimerInv; decide
theorem gap_shaped : gap.Shaped := ⟨rfl, rfl, rfl⟩
theorem gap_ring : gap.RingRegs := by constructor <;> decide
theorem gap_receiver : gap.ReceiverInv := ⟨rfl, rfl⟩

theorem full_inv : full.Inv where
  legal := rfl
  shaped := full_shaped
  ring := full_ring
  sender := full_sender
  receiver := ⟨rfl, rfl⟩
  timers := full_timers
  admission := rfl
  buffers := by
    refine ⟨by decide, by decide, by decide, by decide, ?_, ?_⟩ <;> unfold State.written <;> decide
  phase := rfl

/-- The state `full` with one event before it. -/
def fullAt (e : Event) : State := { full with inputs := [.event e] }

theorem fullAt_inv (e : Event) : (fullAt e).Inv where
  legal := full_inv.legal
  shaped := ⟨rfl, rfl, rfl⟩
  ring := ⟨full_ring.1, full_ring.2, full_ring.3, full_ring.4⟩
  sender := ⟨rfl, full_sender.2⟩
  receiver := ⟨rfl, rfl⟩
  timers := full_timers
  admission := rfl
  buffers := ⟨full_inv.buffers.1, full_inv.buffers.2, full_inv.buffers.3, full_inv.buffers.4,
    full_inv.buffers.5, full_inv.buffers.6⟩
  phase := rfl

/-- The state a step answers, for witnesses of statements about a next state. -/
def stepped (s : State) : State :=
  match step s with
  | .next t => t
  | .fault _ => s
  | .refused _ => s

theorem step_stepped {s : State} (h : after (step s) (fun _ => true) = true) :
    step s = .next (stepped s) := by
  unfold stepped
  cases hs : step s with
  | next t => rfl
  | fault r => rw [hs] at h; simp [after] at h
  | refused r => rw [hs] at h; simp [after] at h

theorem witness_DecodeEncodeAgree : cfgT.legal = true ∧ (Instr.data 7 7 (pkt 1)).wellFormed cfgT = true ∧
    encode cfgT (.data 7 7 (pkt 1)) = some (.wire (encodeFrame cfgT (.data 7 7 (pkt 1)))) := ⟨rfl, rfl, rfl⟩

theorem witness_EncodeBuildsWireFrame : (7 ≤ s0.cfg.maxSeq) ∧ (7 ≤ s0.cfg.maxSeq) ∧
    (pkt 1).length = s0.cfg.fixedLen := by decide

/-- Each clause of DECODE at a boundary: five bytes, six that do not verify, the greatest `ack` and `seq`,
and one above. -/
theorem witness_DecodeClassifiesBuffer :
    ([0#8, 0#8, 0#8, 0#8, 0#8].length < 6) ∧
    (6 ≤ [0#8, 0#8, 0#8, 0#8, 0#8, 0#8].length ∧ cfgT.check [0#8, 0#8, 0#8, 0#8, 0#8, 0#8] ≠ 0#32) ∧
    (cfgT.check (encodeFrame cfgT (.data 7 7 (pkt 1))) = 0#32 ∧
      (encodeFrame cfgT (.data 7 7 (pkt 1))).length = cfgT.fixedLen + 7) ∧
    cfgT.check (encodeFrame cfgT (.ack 7)) = 0#32 ∧ cfgT.check (encodeFrame cfgT (.nak 7)) = 0#32 ∧
    cfgT.check (encodeFrame cfgT (.ack 8)) = 0#32 := by
  decide +kernel

theorem witness_RingFunctionsReturn : s0.cfg.legal = true ∧ 7 ≤ s0.cfg.maxSeq ∧
    s0.expected ≤ s0.cfg.maxSeq := by decide

/-- The corner clauses of BETWEEN agree where they meet: `a = b = c` is empty. -/
theorem witness_BetweenReturnsMembership : between 5 5 5 = false ∧ between 5 5 6 = true ∧
    between 5 6 6 = false := by decide

theorem witness_BetweenIsForwardDistance : 7 ≤ cfgT.maxSeq ∧ 0 ≤ cfgT.maxSeq ∧
    between 7 0 1 = true ∧ forward cfgT 7 0 < forward cfgT 7 1 := by decide

theorem witness_ConsecutiveSlotsDistinct : cfgT.legal = true ∧ 7 ≤ cfgT.maxSeq ∧ 3 < cfgT.w := by decide

theorem witness_ArmRtReplacesEntry : full.cfg.legal = true ∧ full.Shaped ∧ 7 ≤ full.cfg.maxSeq :=
  ⟨rfl, full_shaped, by decide⟩

theorem witness_CancelRtDisarmsEntry : full.cfg.legal = true ∧ full.Shaped ∧ 7 ≤ full.cfg.maxSeq :=
  ⟨rfl, full_shaped, by decide⟩

theorem witness_CancelAckOnlyWhenArmed : gap.ackArmed = true ∧ s0.ackArmed = false := ⟨rfl, rfl⟩

theorem witness_SubmitStoresPacket : (pkt 1).length = s0.cfg.fixedLen := rfl

theorem witness_AckThroughRetiresUpTo : full.cfg.legal = true ∧ full.Shaped ∧ full.RingRegs ∧
    full.SenderInv ∧ 1 ≤ full.cfg.maxSeq ∧ full.outstanding 1 = true ∧ full.outstanding 2 = false :=
  ⟨rfl, full_shaped, full_ring, full_sender, by decide, rfl, rfl⟩

theorem witness_AckThroughIsCumulative : full.cfg.legal = true ∧ full.RingRegs ∧ 1 ≤ full.cfg.maxSeq :=
  ⟨rfl, full_ring, by decide⟩

theorem witness_NakResendsSuccessor : 7 ≤ full.cfg.maxSeq ∧
    full.outstanding ((7 + 1) % full.cfg.r) = true ∧ full.outstanding ((1 + 1) % full.cfg.r) = false := by
  decide

theorem witness_OnDataIgnoresDuplicates : between gap.expected 4 gap.tooFar = false ∧
    between gap.expected 1 gap.tooFar = true ∧ gap.arrived.getD (1 % gap.cfg.w) false = true := by decide

theorem witness_OnDataStoresOutOfOrder : gap.cfg.legal = true ∧ gap.Shaped ∧ gap.RingRegs ∧
    gap.ReceiverInv ∧ 3 ≤ gap.cfg.maxSeq ∧ (pkt 3).length = gap.cfg.fixedLen ∧ gap.inWindow 3 = true ∧
    gap.arrivedAt 3 = false ∧ 3 ≠ gap.expected :=
  ⟨rfl, gap_shaped, gap_ring, gap_receiver, by decide, rfl, rfl, rfl, by decide⟩

theorem witness_OnDataDeliversRun : gap.cfg.legal = true ∧ gap.Shaped ∧ gap.RingRegs ∧ gap.ReceiverInv ∧
    (pkt 0).length = gap.cfg.fixedLen ∧ 1 ≤ 3 ∧ 3 ≤ gap.cfg.w ∧
    (∀ k < 3, 1 ≤ k → gap.arrivedAt (ahead gap.cfg gap.expected k) = true) ∧
    gap.arrivedAt (ahead gap.cfg gap.expected 3) = false :=
  ⟨rfl, gap_shaped, gap_ring, gap_receiver, rfl, by decide, by decide, by decide, rfl⟩

/-- The longest run: a full window waits behind the awaited frame. -/
theorem witness_OnDataDeliversRun_whole_window :
    let s := { gap with arrived := [false, true, true, true] }
    s.Shaped ∧ s.ReceiverInv ∧ ∀ k < s.cfg.w, 1 ≤ k → s.arrivedAt (ahead s.cfg s.expected k) = true :=
  ⟨⟨rfl, rfl, rfl⟩, ⟨rfl, rfl⟩, by decide⟩

theorem witness_UpperReadySubmitsOrRefuses : [0#8].length ≠ ready.cfg.fixedLen ∧
    (pkt 0).length = ready.cfg.fixedLen ∧ ¬(full.bufferedCount < full.cfg.w ∧ full.chanReady = true) ∧
    ready.bufferedCount < ready.cfg.w ∧ ready.chanReady = true := by decide

theorem witness_ReservedCodesSetEvcode : (fullAt ⟨7#3, 1#8, []⟩).cfg.legal = true ∧
    (fullAt ⟨7#3, 1#8, []⟩).inputs = .event ⟨7#3, 1#8, []⟩ :: [] ∧
    ((7#3 : BitVec 3) = 0#3 ∨ (7#3 : BitVec 3) = 6#3 ∨ (7#3 : BitVec 3) = 7#3) ∧
    [0#8].length ≠ (fullAt ⟨1#3, 0#8, [0#8]⟩).cfg.fixedLen := by decide

theorem witness_ChannelReadyIsIdempotent : full.chanReady = true := rfl

theorem witness_FrameReceivedBranches : decodeFrame cfgT [0#8] = .corruptFrame ∧
    decodeFrame cfgT (encodeFrame cfgT (.ack 8)) = .malformedFrame ∧
    decodeFrame cfgT (encodeFrame cfgT (.data 7 7 (pkt 1))) = .data 7 7 (pkt 1) ∧
    decodeFrame cfgT (encodeFrame cfgT (.nak 7)) = .nak 7 ∧
    decodeFrame cfgT (encodeFrame cfgT (.ack 7)) = .ack 7 := by
  decide +kernel

/-- Both clauses of RX_CORRUPT at the boundary of the length test. -/
theorem witness_CorruptBufferNakOrDefer :
    (gap.nakSuppressed = false ∨ (3 ≤ [1#8, 7#8, 0#8].length ∧
      ([1#8, 7#8, 0#8].getD 2 0#8).toNat = gap.expected)) ∧
    ¬(gap.nakSuppressed = false ∨ (3 ≤ [1#8, 7#8].length ∧
      ([1#8, 7#8].getD 2 0#8).toNat = gap.expected)) := by decide

theorem witness_DataFrameProcessing : (1 ≠ s0.expected ∧ s0.nakSuppressed = false) ∧
    (0 = s0.expected ∨ s0.nakSuppressed = true) := by decide

theorem witness_NoNakWithDelivery : gap.cfg.legal = true ∧ gap.Shaped ∧ gap.RingRegs ∧ gap.ReceiverInv ∧
    0 ≤ gap.cfg.maxSeq ∧ gap.actions = [] :=
  ⟨rfl, gap_shaped, gap_ring, gap_receiver, by decide, rfl⟩

theorem witness_AckFrameProcessing : full.outstanding 5 = false := rfl

theorem witness_SpuriousTimeoutsOnlyRecorded : (full.cfg.maxSeq < (8#8 : Byte).toNat) ∧
    between full.ackExpected (3#8 : Byte).toNat full.nextToSend = false ∧
    s0.rtArmed.getD ((0#8 : Byte).toNat % s0.cfg.w) false = false ∧ full.ackArmed = false := by decide

theorem witness_RetxTimeoutResendsAndStaggers : full.cfg.legal = true ∧ full.Shaped ∧ full.RingRegs ∧
    full.SenderInv ∧ full.TimerInv ∧ (7#8 : Byte).toNat ≤ full.cfg.maxSeq ∧
    full.outstanding (7#8 : Byte).toNat = true :=
  ⟨rfl, full_shaped, full_ring, full_sender, full_timers, by decide, rfl⟩

/-- The delay clauses: the successor, the second staggered sequence, a state with an unarmed entry. -/
theorem witness_RetxTimeoutResendsAndStaggers_delays : full.outstanding (((7#8 : Byte).toNat + 1) % full.cfg.r) = true ∧
    (((List.range' 2 (full.cfg.r - 2)).map (ahead full.cfg 7)).filter full.outstanding)[1]? = some 6 ∧
    ({ full with nextToSend := 1, bufferedCount := 3, rtArmed := [true, false, true, true] } :
      State).TimerInv := by
  refine ⟨rfl, rfl, ?_⟩
  unfold State.TimerInv
  decide

theorem witness_AckTimeoutSendsAck : gap.ackArmed = true ∧ s0.ackArmed = false := ⟨rfl, rfl⟩

theorem witness_AdmissionRecomputed : (fullAt ⟨2#3, 0#8, []⟩).inputs ≠ [] ∧
    step (fullAt ⟨2#3, 0#8, []⟩) = .next (stepped (fullAt ⟨2#3, 0#8, []⟩)) :=
  ⟨by decide, step_stepped (by decide)⟩

/-- One descriptor for each clause of STEP. -/
theorem witness_StepOperation : (Event.mk 1#3 0#8 []).code = 1#3 ∧ (Event.mk 2#3 0#8 []).code = 2#3 ∧
    (Event.mk 3#3 0#8 []).code = 3#3 ∧ (Event.mk 4#3 0#8 []).code = 4#3 ∧
    (Event.mk 5#3 0#8 []).code = 5#3 ∧ (Event.mk 7#3 0#8 []).code = 7#3 := by decide

theorem witness_StepRunsDecodedInput : s0.cfg.legal = true ∧ s0.inputs = [] ∧
    decodeInput (fullAt ⟨4#3, 7#8, []⟩).cfg (.event ⟨4#3, 7#8, []⟩) = .ok (.retxTimeout 7#8) :=
  ⟨rfl, rfl, rfl⟩

theorem witness_StepNeverStops : (fullAt ⟨3#3, 0#8, List.replicate 11 0#8⟩).cfg.legal = true ∧
    (List.replicate 11 0#8 : Bytes).length ≤ full.cfg.rxMax := by decide

theorem witness_IllegalInputsRefused :
    (Config.r { cfgT with w := 3 } ≠ 2 * 3 ∧ Config.r { cfgT with maxSeq := 6 } % 2 = 1 ∧
      Config.r { cfgT with maxSeq := 0 } < 2 ∧ 256 < Config.r { cfgT with maxSeq := 257 }) ∧
    (fullAt ⟨3#3, 0#8, List.replicate 12 0#8⟩).cfg.legal = true ∧
    full.cfg.rxMax < (List.replicate 12 0#8 : Bytes).length := by decide

/-- Meets the hypotheses of StepKeepsInvariant, ErrBitsAreSticky, UnwrittenBytesNeverSeen, BufferWriters,
ParametersAndPhase, ErrNeverInfluencesAStep, OneFramePerStep and RegistersFitTheirWidths. -/
theorem witness_StepKeepsInvariant : (fullAt ⟨4#3, 7#8, []⟩).Inv ∧
    (fullAt ⟨4#3, 7#8, []⟩).inputs = .event ⟨4#3, 7#8, []⟩ :: [] ∧
    step (fullAt ⟨4#3, 7#8, []⟩) = .next (stepped (fullAt ⟨4#3, 7#8, []⟩)) :=
  ⟨fullAt_inv _, rfl, step_stepped (by decide)⟩

theorem witness_SenderWindowInvariant : (fullAt ⟨2#3, 0#8, []⟩).RingRegs ∧
    (fullAt ⟨2#3, 0#8, []⟩).SenderInv ∧
    step (fullAt ⟨2#3, 0#8, []⟩) = .next (stepped (fullAt ⟨2#3, 0#8, []⟩)) :=
  ⟨(fullAt_inv _).ring, (fullAt_inv _).sender, step_stepped (by decide)⟩

theorem witness_ReceiverWindowInvariant : (fullAt ⟨2#3, 0#8, []⟩).tooFar =
      ((fullAt ⟨2#3, 0#8, []⟩).expected + cfgT.w) % cfgT.r ∧
    (fullAt ⟨2#3, 0#8, []⟩).RingRegs ∧
    step (fullAt ⟨2#3, 0#8, []⟩) = .next (stepped (fullAt ⟨2#3, 0#8, []⟩)) :=
  ⟨rfl, (fullAt_inv _).ring, step_stepped (by decide)⟩

theorem witness_TimersMatchOutstanding : (fullAt ⟨2#3, 0#8, []⟩).Shaped ∧
    (fullAt ⟨2#3, 0#8, []⟩).TimerInv ∧
    step (fullAt ⟨2#3, 0#8, []⟩) = .next (stepped (fullAt ⟨2#3, 0#8, []⟩)) :=
  ⟨⟨rfl, rfl, rfl⟩, full_timers, step_stepped (by decide)⟩

theorem witness_MemoriesStayCanonical : Memory.wf (fullAt ⟨2#3, 0#8, []⟩).outbox ∧
    Memory.wf (fullAt ⟨2#3, 0#8, []⟩).reassembly ∧
    step (fullAt ⟨2#3, 0#8, []⟩) = .next (stepped (fullAt ⟨2#3, 0#8, []⟩)) :=
  ⟨full_inv.buffers.outbox_wf, full_inv.buffers.reassembly_wf, step_stepped (by decide)⟩

theorem witness_ErrBitsAreSticky :
    let s := { fullAt ⟨4#3, 3#8, []⟩ with err := 1#4 }
    s.errBit .adm = true ∧ s.inputs = .event ⟨4#3, 3#8, []⟩ :: [] ∧ step s = .next (stepped s) :=
  ⟨by decide, rfl, step_stepped (by decide)⟩

theorem witness_HonouredEventsSetNoErr : (fullAt ⟨4#3, 7#8, []⟩).Inv ∧
    (fullAt ⟨4#3, 7#8, []⟩).honouredBy ⟨4#3, 7#8, []⟩ = true ∧
    (fullAt ⟨2#3, 0#8, []⟩).honouredBy ⟨2#3, 0#8, []⟩ = true ∧
    { ready with ackArmed := true }.honouredBy ⟨1#3, 0#8, pkt 0⟩ = true ∧
    { ready with ackArmed := true }.honouredBy ⟨5#3, 0#8, []⟩ = true ∧
    s0.honouredBy ⟨3#3, 0#8, [1#8]⟩ = true :=
  ⟨fullAt_inv _, by decide, by decide, by decide, by decide, by decide⟩

/-- Two states that differ in their delays alone. -/
theorem witness_DelaysNeverInfluenceAStep :
    let s := fullAt ⟨4#3, 7#8, []⟩
    let s' := { s with rtDelay := [1, 2, 3, 4], ackDelay := 9, cfg := { cfgT with tData := 1 } }
    s.forgetDelays = s'.forgetDelays ∧ s ≠ s' ∧ step s = .next (stepped s) :=
  ⟨rfl, by decide, step_stepped (by decide)⟩

/-- Suppression begins, suppression ends, the channel announced, the channel taken. -/
theorem witness_FlagTransitions :
    (s0.nakSuppressed = false ∧ (stepped { s0 with
      inputs := [.event ⟨3#3, 0#8, [1#8]⟩] }).nakSuppressed = true) ∧
    (gap.nakSuppressed = true ∧ (stepped { gap with
      inputs := [.event ⟨3#3, 0#8, encodeFrame cfgT (.data 7 0 (pkt 0))⟩] }).nakSuppressed = false) ∧
    (full.chanReady = true ∧ (stepped (fullAt ⟨4#3, 7#8, []⟩)).chanReady = false) := by
  decide +kernel

/-- Two ends that differ in all an end may have to itself: RX_MAX, the delays, what reset left in the buffers
and in the timer entries. -/
def link0 : Link where
  order := .fifo
  a := End.start cfgT 0 [pkt 160]
  b :=
    { End.start { cfgT with rxMax := 20, tData := 60, tAck := 5 } 3 [pkt 176] with
      engine := { State.fresh { cfgT with rxMax := 20, tData := 60, tAck := 5 } 3 with
        outbox := Memory.writeBytes [] 0 (pkt 1), reassembly := Memory.writeBytes [] 8 (pkt 2),
        rtDelay := [9, 8, 7, 6] } }

theorem link0_start : link0.Start where
  ends := by
    refine ⟨⟨by decide, ?_, rfl, rfl, rfl, rfl⟩, ⟨by decide, ?_, rfl, rfl, rfl, rfl⟩⟩ <;>
      constructor <;> rfl
  peers := ⟨rfl, rfl, fun _ => rfl⟩

/-- Program 5 of 95_test_vectors, its events in order. -/
def program5 : List LinkMove :=
  [.ready .a, .offer .a, .present .b 0, .ready .b, .offer .b, .present .a 0, .ackExpiry .a, .present .b 0]

/-- The end state of Program 5: both sides delivered, the link quiescent, nothing left to offer. -/
theorem test_link_program5 :
    (match link0.run program5 with
      | some l => decide (l.b.delivered = [pkt 160] ∧ l.a.delivered = [pkt 176] ∧
          l.a.waiting = [] ∧ l.b.waiting = [] ∧ l.a.inbound = [] ∧ l.b.inbound = [] ∧
          l.a.engine.inputs = [] ∧ l.b.engine.inputs = [] ∧
          l.a.engine.bufferedCount = 0 ∧ l.b.engine.bufferedCount = 0 ∧
          (∀ x ∈ l.a.engine.rtArmed ++ l.b.engine.rtArmed, x = false) ∧
          l.a.engine.ackArmed = false ∧ l.b.engine.ackArmed = false ∧
          (∀ x ∈ l.a.engine.arrived ++ l.b.engine.arrived, x = false) ∧
          l.a.engine.err = 0#4 ∧ l.b.engine.err = 0#4)
      | none => false) = true := by
  decide +kernel

/-- What the test checks is the end of a run as `Link.Ended` has it: a link of two fresh ends with nothing to
offer has ended, and one with a packet to offer has not. -/
theorem test_link_ended :
    Link.Ended { order := .fifo, a := End.start cfgT 0 [], b := End.start cfgT 1 [] } ∧ ¬link0.Ended :=
  ⟨⟨⟨rfl, rfl⟩, ⟨⟨⟨rfl, by decide, rfl, by decide⟩, ⟨rfl, by decide, rfl, by decide⟩⟩, ⟨rfl, rfl⟩,
    ⟨rfl, rfl⟩⟩⟩, fun h => by simpa [link0, End.start] using h.nothing_to_offer.1⟩

theorem witness_LinkDeliversInOrder : link0.Start ∧ link0.order = .fifo ∧
    (link0.run program5).isSome = true :=
  ⟨link0_start, rfl, by decide +kernel⟩

theorem witness_LinkStreamsStayEmpty : cfgT.legal = true ∧ Config.legal { cfgT with rxMax := 20 } = true ∧
    Peers cfgT { cfgT with rxMax := 20 } ∧ link0.Start ∧
    (link0.a.engine.inputs = [] ∧ link0.b.engine.inputs = []) ∧ (link0.move (.ready .a)).isSome = true :=
  ⟨by decide, by decide, ⟨rfl, rfl, fun _ => rfl⟩, link0_start, ⟨rfl, rfl⟩, by decide +kernel⟩

end Sys2Proof.Tests
end

/-! PROOF. The two windows by themselves (R20 to R28, R41): what an event can do to the sender's and to the
receiver's edges, said once, and the three statements that follow: ResetValues, SenderWindowInvariant,
ReceiverWindowInvariant. -/

namespace Sys2Proof.Machine

/-! ### Distances on the ring -/

section Ring

variable {c : Config} {a b n : Nat}

/-- The forward distance of two ring values, with no remainder in it (R133). -/
theorem forward_eq (ha : a ≤ c.maxSeq) (hb : b ≤ c.maxSeq) :
    forward c a b = if a ≤ b then b - a else b + c.r - a := by
  have hr : c.r = c.maxSeq + 1 := rfl
  unfold forward
  split
  · rw [show b + c.r - a = b - a + c.r by omega, Nat.add_mod_right, Nat.mod_eq_of_lt (by omega)]
  · exact Nat.mod_eq_of_lt (by omega)

theorem inc_eq (ha : a ≤ c.maxSeq) : inc c a = if a = c.maxSeq then 0 else a + 1 := by
  split
  · subst a; exact inc_maxSeq
  · exact inc_of_lt (by omega)

/-- Moving the upper edge on lengthens the distance by one, unless it comes full circle. -/
theorem forward_inc_right (ha : a ≤ c.maxSeq) (hb : b ≤ c.maxSeq) (h : forward c a b < c.maxSeq) :
    forward c a (inc c b) = forward c a b + 1 := by
  have hr : c.r = c.maxSeq + 1 := rfl
  rw [forward_eq ha hb] at *
  rw [forward_eq ha (inc_le b), inc_eq hb]
  split_ifs at * <;> omega

/-- Moving the lower edge on shortens a distance other than 0 by one. -/
theorem forward_inc_left (ha : a ≤ c.maxSeq) (hb : b ≤ c.maxSeq) (h : a ≠ b) :
    forward c (inc c a) b = forward c a b - 1 := by
  have hr : c.r = c.maxSeq + 1 := rfl
  rw [forward_eq (inc_le a) hb, forward_eq ha hb, inc_eq ha]
  split_ifs <;> omega

theorem ahead_zero (ha : a ≤ c.maxSeq) : ahead c a 0 = a := Nat.mod_eq_of_lt (Nat.lt_succ_of_le ha)

theorem inc_ahead (n : Nat) : inc c (ahead c a n) = ahead c a (n + 1) := Nat.mod_add_mod ..

end Ring

/-! ### The registers of the two windows -/

/-- The sender's edges and count, with the parameters (R20, R21, R22). -/
structure SenderWindow where
  cfg           : Config
  ackExpected   : Nat
  nextToSend    : Nat
  bufferedCount : Nat

/-- The receiver's edges, with the parameters (R25, R26). -/
structure ReceiverWindow where
  cfg      : Config
  expected : Nat
  tooFar   : Nat

def State.senderWindow (s : State) : SenderWindow where
  cfg           := s.cfg
  ackExpected   := s.ackExpected
  nextToSend    := s.nextToSend
  bufferedCount := s.bufferedCount

def State.receiverWindow (s : State) : ReceiverWindow where
  cfg      := s.cfg
  expected := s.expected
  tooFar   := s.tooFar

/-! ### Operations that leave both windows alone -/

section Unchanged

variable (s : State)

@[simp] theorem State.classify_windows (c : FrameClass) : (s.classify c).senderWindow = s.senderWindow ∧
    (s.classify c).receiverWindow = s.receiverWindow := ⟨rfl, rfl⟩

@[simp] theorem State.raise_windows (b : ErrBit) : (s.raise b).senderWindow = s.senderWindow ∧
    (s.raise b).receiverWindow = s.receiverWindow := ⟨rfl, rfl⟩

@[simp] theorem State.finishStep_windows : s.finishStep.senderWindow = s.senderWindow ∧
    s.finishStep.receiverWindow = s.receiverWindow := ⟨rfl, rfl⟩

@[simp] theorem State.armRt_windows (q d : Nat) : (s.armRt q d).senderWindow = s.senderWindow ∧
    (s.armRt q d).receiverWindow = s.receiverWindow := ⟨rfl, rfl⟩

@[simp] theorem State.disarmRt_windows (q : Nat) : (s.disarmRt q).senderWindow = s.senderWindow ∧
    (s.disarmRt q).receiverWindow = s.receiverWindow := ⟨rfl, rfl⟩

@[simp] theorem State.armAck_windows (d : Nat) : (s.armAck d).senderWindow = s.senderWindow ∧
    (s.armAck d).receiverWindow = s.receiverWindow := ⟨rfl, rfl⟩

@[simp] theorem State.disarmAck_windows : s.disarmAck.senderWindow = s.senderWindow ∧
    s.disarmAck.receiverWindow = s.receiverWindow := ⟨rfl, rfl⟩

@[simp] theorem State.transmit_windows (k : FrameKind) (q : Nat) :
    (s.transmit k q).senderWindow = s.senderWindow ∧
    (s.transmit k q).receiverWindow = s.receiverWindow := by
  simp [State.senderWindow, State.receiverWindow]

@[simp] theorem State.resend_windows (q : Nat) : (s.resend q).senderWindow = s.senderWindow ∧
    (s.resend q).receiverWindow = s.receiverWindow := by
  simp [State.resend]

@[simp] theorem State.sendAck_windows : s.sendAck.senderWindow = s.senderWindow ∧
    s.sendAck.receiverWindow = s.receiverWindow := s.transmit_windows .ack 0

@[simp] theorem State.sendNak_windows : s.sendNak.senderWindow = s.senderWindow ∧
    s.sendNak.receiverWindow = s.receiverWindow := s.transmit_windows .nak 0

@[simp] theorem State.deliveries_windows (out : List Bytes) :
    (out.foldl State.deliver s).senderWindow = s.senderWindow ∧
    (out.foldl State.deliver s).receiverWindow = s.receiverWindow := by
  rw [State.deliver_foldl]; exact ⟨rfl, rfl⟩

@[simp] theorem State.nakOrDefer_windows (q : Nat) : (s.nakOrDefer q).senderWindow = s.senderWindow ∧
    (s.nakOrDefer q).receiverWindow = s.receiverWindow := by
  rcases s.nakOrDefer_cases q with ⟨-, -, h⟩ | ⟨-, h⟩ <;> simp [h]

@[simp] theorem State.rxCorrupt_windows (claimed : Option Byte) :
    (s.rxCorrupt claimed).senderWindow = s.senderWindow ∧
    (s.rxCorrupt claimed).receiverWindow = s.receiverWindow := by
  unfold State.rxCorrupt; dsimp only; split <;> simp

@[simp] theorem State.nakResend_windows (a : Nat) : (s.nakResend a).senderWindow = s.senderWindow ∧
    (s.nakResend a).receiverWindow = s.receiverWindow := by
  unfold State.nakResend; split <;> simp

@[simp] theorem State.armSuccessor_windows (q : Nat) : (s.armSuccessor q).senderWindow = s.senderWindow ∧
    (s.armSuccessor q).receiverWindow = s.receiverWindow := by
  unfold State.armSuccessor; split <;> simp

@[simp] theorem State.stagger_windows (q : Nat) (ds : List Nat) (k : Nat) :
    (State.stagger q ds k s).senderWindow = s.senderWindow ∧
    (State.stagger q ds k s).receiverWindow = s.receiverWindow := by
  simp [State.senderWindow, State.receiverWindow]

@[simp] theorem State.retxTimeout_windows (q : Nat) : (s.retxTimeout q).senderWindow = s.senderWindow ∧
    (s.retxTimeout q).receiverWindow = s.receiverWindow := by
  unfold State.retxTimeout; split <;> simp

@[simp] theorem State.ackTimeout_windows : s.ackTimeout.senderWindow = s.senderWindow ∧
    s.ackTimeout.receiverWindow = s.receiverWindow := by
  unfold State.ackTimeout; split <;> simp

/-! ### Operations that leave one window alone -/

@[simp] theorem State.onData_senderWindow (q : Nat) (p : Bytes) :
    (s.onData q p).state.senderWindow = s.senderWindow := by
  simp [State.senderWindow]

@[simp] theorem State.submit_receiverWindow (p : Bytes) :
    (s.submit p).receiverWindow = s.receiverWindow := rfl

@[simp] theorem State.ackThrough_receiverWindow (a : Nat) :
    (s.ackThrough a).receiverWindow = s.receiverWindow := by
  simp [State.receiverWindow]

@[simp] theorem State.upperReady_receiverWindow (p : Bytes) :
    (s.upperReady p).receiverWindow = s.receiverWindow := by
  unfold State.upperReady; split_ifs <;> simp

end Unchanged

/-! ### What an event does to the sender's window -/

/-- The window after a submission (R155). -/
def SenderWindow.submit (v : SenderWindow) : SenderWindow :=
  { v with bufferedCount := v.bufferedCount + 1, nextToSend := inc v.cfg v.nextToSend }

/-- The window after one retirement (R160). -/
def SenderWindow.retire (v : SenderWindow) : SenderWindow :=
  { v with bufferedCount := v.bufferedCount - 1, ackExpected := inc v.cfg v.ackExpected }

/-- The two things that move the sender's window, each only where its guard allows it. -/
inductive SenderWindow.Move : SenderWindow → SenderWindow → Prop
  | submit (v : SenderWindow) (room : v.bufferedCount < v.cfg.w) : Move v v.submit
  | retire (v : SenderWindow) (nonempty : v.ackExpected ≠ v.nextToSend) : Move v v.retire

/-- Any number of moves, in order. -/
abbrev SenderWindow.Moves : SenderWindow → SenderWindow → Prop := Relation.ReflTransGen Move

section SenderMoves

variable (s : State)

theorem State.submit_senderWindow (p : Bytes) : (s.submit p).senderWindow = s.senderWindow.submit := rfl

theorem State.retire_senderWindow : s.retire.senderWindow = s.senderWindow.retire := by
  simp [State.senderWindow, SenderWindow.retire]

/-- Nothing is outstanding in an empty window. -/
theorem State.edges_ne_of_outstanding {a : Nat} (h : s.outstanding a = true) :
    s.ackExpected ≠ s.nextToSend := by
  intro he
  simp [State.outstanding, he] at h

theorem State.retireWhile_moves (fuel a : Nat) :
    s.senderWindow.Moves (State.retireWhile fuel a s).senderWindow := by
  induction fuel generalizing s with
  | zero => exact .refl
  | succ n ih =>
    rw [State.retireWhile]
    split
    case isTrue h =>
      have hmove : s.senderWindow.Move s.retire.senderWindow :=
        s.retire_senderWindow ▸ .retire _ (s.edges_ne_of_outstanding h)
      exact .head hmove (ih s.retire)
    case isFalse => exact .refl

/-- ACK_THROUGH after something that left the sender's window alone (R160). -/
theorem State.ackThrough_moves_of_eq {s u : State} (h : u.senderWindow = s.senderWindow) (a : Nat) :
    s.senderWindow.Moves (u.ackThrough a).senderWindow :=
  h ▸ u.retireWhile_moves u.cfg.r a

/-- UPPER_READY moves the window only by an admitted submission (R180). -/
theorem State.upperReady_moves (p : Bytes) : s.senderWindow.Moves (s.upperReady p).senderWindow := by
  unfold State.upperReady
  split_ifs with hlen hadm
  · exact .refl
  · exact .refl
  · obtain ⟨hroom, -⟩ : s.bufferedCount < s.cfg.w ∧ s.chanReady = true := by
      simpa [State.admissible] using hadm
    rw [(State.resend_windows _ _).1, State.submit_senderWindow]
    exact .single (.submit _ hroom)

/-- FRAME_RECEIVED moves the window only by ACK_THROUGH, the last act of its branches (R183, R189). -/
theorem State.frameReceived_moves (b : Bytes) :
    s.senderWindow.Moves (s.frameReceived b).senderWindow := by
  unfold State.frameReceived
  cases decodeFrame s.cfg b with
  | corruptFrame => exact (s.rxCorrupt_windows _).1 ▸ .refl
  | malformedFrame => exact .refl
  | data a q p => exact State.ackThrough_moves_of_eq (by simp) a
  | nak a => exact State.ackThrough_moves_of_eq (by simp) a
  | ack a => exact State.ackThrough_moves_of_eq (s.classify_windows .ack).1 a

/-- Whatever an event does to the sender's window is a sequence of admitted submissions and of retirements
from a window that is not empty. Case `h_k` is event code `k`, the last the reserved codes (R201). -/
theorem State.handle_moves (e : Event) : s.senderWindow.Moves (s.handle e).senderWindow := by
  unfold State.handle
  split
  case h_1 => exact s.upperReady_moves _
  case h_2 => exact .refl
  case h_3 => exact s.frameReceived_moves _
  case h_4 => exact (s.retxTimeout_windows _).1 ▸ .refl
  case h_5 => exact s.ackTimeout_windows.1 ▸ .refl
  case h_6 => exact .refl

end SenderMoves

/-! ### The sender invariant -/

/-- The sender invariant (R24) with what it rests on: a legal configuration and edges on the ring. -/
structure SenderWindow.Consistent (v : SenderWindow) : Prop where
  legal        : v.cfg.legal = true
  ack_expected : v.ackExpected ≤ v.cfg.maxSeq
  next_to_send : v.nextToSend ≤ v.cfg.maxSeq
  count        : v.bufferedCount = forward v.cfg v.ackExpected v.nextToSend
  bound        : v.bufferedCount ≤ v.cfg.w

namespace SenderWindow

variable {v v' : SenderWindow}

theorem Consistent.submit (h : v.Consistent) (room : v.bufferedCount < v.cfg.w) :
    v.submit.Consistent := by
  obtain ⟨hl, ha, hn, hcount, -⟩ := h
  have hw : v.bufferedCount < v.cfg.maxSeq := by
    have := Config.w_lt_r hl
    have : v.cfg.r = v.cfg.maxSeq + 1 := rfl
    omega
  exact ⟨hl, ha, inc_le _,
    (congrArg (· + 1) hcount).trans (forward_inc_right ha hn (hcount ▸ hw)).symm, room⟩

theorem Consistent.retire (h : v.Consistent) (nonempty : v.ackExpected ≠ v.nextToSend) :
    v.retire.Consistent := by
  obtain ⟨hl, ha, hn, hcount, hbound⟩ := h
  exact ⟨hl, inc_le _, hn, (congrArg (· - 1) hcount).trans (forward_inc_left ha hn nonempty).symm,
    (Nat.sub_le _ 1).trans hbound⟩

theorem Consistent.moves (h : v.Consistent) (hm : v.Moves v') : v'.Consistent := by
  induction hm with
  | refl => exact h
  | tail _ m ih =>
    cases m with
    | submit room => exact ih.submit room
    | retire nonempty => exact ih.retire nonempty

end SenderWindow

/-! ### What an event does to the receiver's window -/

/-- Both edges move one place on, as in a round of the drain (R170). -/
def ReceiverWindow.advance (v : ReceiverWindow) : ReceiverWindow :=
  { v with expected := inc v.cfg v.expected, tooFar := inc v.cfg v.tooFar }

section ReceiverMoves

variable (s : State)

theorem State.drain_receiverWindow (fuel : Nat) :
    ∃ n ≤ fuel, (State.drain fuel s).1.receiverWindow = ReceiverWindow.advance^[n] s.receiverWindow := by
  induction fuel generalizing s with
  | zero => exact ⟨0, Nat.le_refl 0, rfl⟩
  | succ fuel ih =>
    rw [State.drain]
    split
    · obtain ⟨n, hn, h⟩ := ih s.advance
      exact ⟨n + 1, Nat.succ_le_succ hn, h⟩
    · exact ⟨0, Nat.zero_le _, rfl⟩

theorem State.onData_receiverWindow (q : Nat) (p : Bytes) :
    ∃ n ≤ s.cfg.w, (s.onData q p).state.receiverWindow = ReceiverWindow.advance^[n] s.receiverWindow := by
  unfold State.onData
  split_ifs
  · exact ⟨0, Nat.zero_le _, rfl⟩
  · exact (s.store q p).drain_receiverWindow s.cfg.w
  · exact ⟨0, Nat.zero_le _, rfl⟩

theorem State.rxData_receiverWindow (a q : Nat) (p : Bytes) :
    (s.rxData a q p).receiverWindow = ((s.nakOrDefer q).onData q p).state.receiverWindow := by
  simp [State.rxData]

/-- Only the drain of ON_DATA moves the receiver's edges, both together and at most `W` places (R26, R170). -/
theorem State.frameReceived_receiverWindow (b : Bytes) :
    ∃ n ≤ s.cfg.w, (s.frameReceived b).receiverWindow = ReceiverWindow.advance^[n] s.receiverWindow := by
  unfold State.frameReceived
  cases decodeFrame s.cfg b with
  | corruptFrame => exact ⟨0, Nat.zero_le _, (s.rxCorrupt_windows _).2⟩
  | malformedFrame => exact ⟨0, Nat.zero_le _, rfl⟩
  | data a q p =>
    obtain ⟨hs, hr⟩ := s.nakOrDefer_windows q
    have hc : (s.nakOrDefer q).cfg = s.cfg := congrArg SenderWindow.cfg hs
    rw [State.rxData_receiverWindow, ← hc, ← hr]
    exact (s.nakOrDefer q).onData_receiverWindow q p
  | nak a => exact ⟨0, Nat.zero_le _, by simp [State.rxNak]⟩
  | ack a => exact ⟨0, Nat.zero_le _, by simp [State.rxAck]⟩

/-- Of the events only FRAME_RECEIVED moves the receiver's edges. Case `h_k` is event code `k`, the last the
reserved codes (R201). -/
theorem State.handle_receiverWindow (e : Event) :
    ∃ n ≤ s.cfg.w, (s.handle e).receiverWindow = ReceiverWindow.advance^[n] s.receiverWindow := by
  unfold State.handle
  split
  case h_1 => exact ⟨0, Nat.zero_le _, s.upperReady_receiverWindow _⟩
  case h_2 => exact ⟨0, Nat.zero_le _, rfl⟩
  case h_3 => exact s.frameReceived_receiverWindow _
  case h_4 => exact ⟨0, Nat.zero_le _, (s.retxTimeout_windows _).2⟩
  case h_5 => exact ⟨0, Nat.zero_le _, s.ackTimeout_windows.2⟩
  case h_6 => exact ⟨0, Nat.zero_le _, rfl⟩

end ReceiverMoves

/-! ### The receiver invariant -/

/-- The upper edge is `W` ahead of `expected` (R26). -/
def ReceiverWindow.Aligned (v : ReceiverWindow) : Prop := v.tooFar = (v.expected + v.cfg.w) % v.cfg.r

/-- Both edges are ring values (R25, R26). -/
structure ReceiverWindow.OnRing (v : ReceiverWindow) : Prop where
  expected : v.expected ≤ v.cfg.maxSeq
  too_far  : v.tooFar ≤ v.cfg.maxSeq

namespace ReceiverWindow

variable {v : ReceiverWindow}

theorem Aligned.advance (h : v.Aligned) : v.advance.Aligned := by
  calc inc v.cfg v.tooFar
      = inc v.cfg (ahead v.cfg v.expected v.cfg.w) := congrArg (inc v.cfg) h
    _ = (v.expected + (v.cfg.w + 1)) % v.cfg.r := inc_ahead _
    _ = (inc v.cfg v.expected + v.cfg.w) % v.cfg.r := by
      rw [inc, Nat.mod_add_mod, Nat.add_right_comm, Nat.add_assoc]

theorem advance_onRing (v : ReceiverWindow) : v.advance.OnRing := ⟨inc_le _, inc_le _⟩

/-- From edges on the ring, `n` advances are `n` places ahead. -/
theorem OnRing.iterate_eq (h : v.OnRing) (n : Nat) :
    ReceiverWindow.advance^[n] v =
      { v with expected := ahead v.cfg v.expected n, tooFar := ahead v.cfg v.tooFar n } := by
  induction n with
  | zero => rw [ahead_zero h.expected, ahead_zero h.too_far]; rfl
  | succ n ih =>
    rw [Function.iterate_succ_apply', ih, ReceiverWindow.advance]
    simp only [inc_ahead]

end ReceiverWindow

/-! ### Reset and the step -/

section Steps

variable {s t : State}

/-- A step of the block waits, or runs RESET, or handles an event; in a legal configuration only (R10, R201,
R250). -/
theorem step_handles (h : step s = .next t) : s.cfg.legal = true ∧
    ((s.inputs = [] ∧ t = s.idle) ∨
     (∃ rest, s.inputs = .reset :: rest ∧ t = (s.beginStep rest).applyReset.finishStep) ∨
     (∃ e rest, s.inputs = .event e :: rest ∧ t = ((s.beginStep rest).handle e).finishStep)) := by
  rcases step_cases h with ⟨hl, hx, rfl⟩ | ⟨x, rest, i, u, hl, hx, hd, hu, rfl⟩
  · exact ⟨hl, .inl ⟨hx, rfl⟩⟩
  · refine ⟨hl, .inr ?_⟩
    cases x with
    | reset =>
      obtain rfl : Instr.reset = i := by simpa [decodeInput] using hd
      cases hu
      exact .inl ⟨rest, hx, rfl⟩
    | event e =>
      rw [handle_eq_exec (s := s.beginStep rest) hd] at hu
      cases hu
      exact .inr ⟨e, rest, hx, rfl⟩

theorem State.applyReset_afterReset (s : State) : s.applyReset.AfterReset := by
  constructor <;> simp [State.applyReset]

theorem State.reset_afterReset : State.reset.AfterReset := by
  constructor <;> rfl

theorem State.AfterReset.consistent (h : s.AfterReset) (hl : s.cfg.legal = true) :
    s.senderWindow.Consistent where
  legal := hl
  ack_expected := h.ack_expected.trans_le (Nat.zero_le _)
  next_to_send := h.next_to_send.trans_le (Nat.zero_le _)
  count := by
    simp [State.senderWindow, h.ack_expected, h.next_to_send, h.buffered_count, forward]
  bound := h.buffered_count.trans_le (Nat.zero_le _)

theorem State.AfterReset.aligned (h : s.AfterReset) : s.receiverWindow.Aligned := by
  simp [ReceiverWindow.Aligned, State.receiverWindow, h.expected, h.too_far]

theorem State.AfterReset.onRing (h : s.AfterReset) : s.receiverWindow.OnRing where
  expected := h.expected.trans_le (Nat.zero_le _)
  too_far := h.too_far.trans_le (Nat.le_of_lt_succ (Nat.mod_lt _ Config.r_pos))

/-- The ring registers and the sender invariant, taken apart by window. -/
theorem State.ringRegs_and_senderInv_iff (hl : s.cfg.legal = true) :
    s.RingRegs ∧ s.SenderInv ↔ s.senderWindow.Consistent ∧ s.receiverWindow.OnRing := by
  constructor
  · rintro ⟨⟨ha, hn, he, ht⟩, hcount, hbound⟩
    exact ⟨⟨hl, ha, hn, hcount, hbound⟩, he, ht⟩
  · rintro ⟨⟨-, ha, hn, hcount, hbound⟩, he, ht⟩
    exact ⟨⟨ha, hn, he, ht⟩, hcount, hbound⟩

theorem step_keeps_consistent (h : step s = .next t) (hs : s.senderWindow.Consistent) :
    t.senderWindow.Consistent := by
  obtain ⟨hl, ⟨-, rfl⟩ | ⟨rest, -, rfl⟩ | ⟨e, rest, -, rfl⟩⟩ := step_handles h
  · exact hs
  · exact (s.beginStep rest).applyReset_afterReset.consistent hl
  · exact hs.moves ((s.beginStep rest).handle_moves e)

/-- What holds of the receiver's window after reset and is kept by an advance is kept by every step. -/
theorem step_keeps_receiverWindow {P : ReceiverWindow → Prop} (advance : ∀ v, P v → P v.advance)
    (reset : ∀ u : State, u.AfterReset → P u.receiverWindow) (h : step s = .next t)
    (hs : P s.receiverWindow) : P t.receiverWindow := by
  obtain ⟨-, ⟨-, rfl⟩ | ⟨rest, -, rfl⟩ | ⟨e, rest, -, rfl⟩⟩ := step_handles h
  · exact hs
  · exact reset (s.beginStep rest).applyReset (s.beginStep rest).applyReset_afterReset
  · obtain ⟨n, -, hn⟩ := (s.beginStep rest).handle_receiverWindow e
    rw [(State.finishStep_windows _).2, hn]
    exact Function.Iterate.rec P hs advance n

/-- A step on an event advances the receiver's edges together, at most `W` times (R26). -/
theorem step_event_receiverWindow {e : Event} {rest : List Input} (hx : s.inputs = .event e :: rest)
    (h : step s = .next t) :
    ∃ n ≤ s.cfg.w, t.receiverWindow = ReceiverWindow.advance^[n] s.receiverWindow := by
  obtain ⟨-, ⟨hi, -⟩ | ⟨r, hi, -⟩ | ⟨e', r, -, rfl⟩⟩ := step_handles h
  · simp [hx] at hi
  · simp [hx] at hi
  · exact (s.beginStep r).handle_receiverWindow e'

end Steps

/-! ### The statements -/

/-- Settles O45: every event moves the sender's window only by admitted submissions and by retirements from a
window that is not empty, and either keeps the count at the distance of the edges. -/
theorem senderWindowInvariant : Obligations.SenderWindowInvariant := by
  have hreset : State.reset.cfg.legal = true := by decide
  refine ⟨(State.ringRegs_and_senderInv_iff hreset).mpr
    ⟨State.reset_afterReset.consistent hreset, State.reset_afterReset.onRing⟩, ?_⟩
  intro s t hring hsender h
  have hl := (step_handles h).1
  obtain ⟨hs, hr⟩ := (State.ringRegs_and_senderInv_iff hl).mp ⟨hring, hsender⟩
  have ht := step_keeps_consistent h hs
  have htr := step_keeps_receiverWindow (fun v _ => v.advance_onRing) (fun _ hu => hu.onRing) h hr
  exact (State.ringRegs_and_senderInv_iff ht.legal).mpr ⟨ht, htr⟩

/-- Settles O46: the drain moves both edges by one `inc` a round and nothing else moves either. -/
theorem receiverWindowInvariant : Obligations.ReceiverWindowInvariant := by
  refine ⟨State.reset_afterReset.aligned, ?_, ?_, ?_⟩
  · intro s t hs h
    exact step_keeps_receiverWindow (P := ReceiverWindow.Aligned) (fun _ hv => hv.advance)
      (fun _ hu => hu.aligned) h hs
  · intro s hs
    exact ReceiverWindow.Aligned.advance (v := s.receiverWindow) hs
  · intro s t e rest hring hx h
    obtain ⟨n, hn, ht⟩ := step_event_receiverWindow hx h
    have hv : s.receiverWindow.OnRing := ⟨hring.expected, hring.too_far⟩
    rw [hv.iterate_eq] at ht
    exact ⟨n, hn, congrArg ReceiverWindow.expected ht, congrArg ReceiverWindow.tooFar ht⟩

/-- Settles O42: RESET writes every register of R41, and leaves the parameters and the stream alone. -/
theorem resetValues : Obligations.ResetValues :=
  ⟨State.reset_afterReset, fun s => ⟨s.applyReset, rfl, s.applyReset_afterReset, rfl, rfl⟩⟩

end Sys2Proof.Machine

/-! PROOF. Inputs that are only recorded in `ERR` (R92, R93): reserved codes, packets of the wrong length and
spurious timeouts, with the two statements that follow: ReservedCodesSetEvcode, SpuriousTimeoutsOnlyRecorded. -/

namespace Sys2Proof.Machine

section ErrorRecords

variable {s : State}

/-! ### Inputs whose handler only raises an error -/

/-- The length test comes before the admission test (R92, R180). -/
theorem State.upperReady_of_length_ne {p : Bytes} (h : p.length ≠ s.cfg.fixedLen) :
    s.upperReady p = s.raise .evcode := if_pos h

/-- The descriptors R92 records in `ERR.EVCODE`: a reserved code, or a packet of the wrong length. -/
def State.Unsupported (s : State) (e : Event) : Prop :=
  e.code = 0#3 ∨ e.code = 6#3 ∨ e.code = 7#3 ∨ (e.code = 1#3 ∧ e.data.length ≠ s.cfg.fixedLen)

/-- No FRAME_RECEIVED descriptor is among them. -/
theorem State.Unsupported.code_ne {e : Event} (h : s.Unsupported e) : e.code ≠ 3#3 := by
  rcases h with hc | hc | hc | ⟨hc, -⟩ <;> simp [hc]

theorem State.handle_unsupported {e : Event} (h : s.Unsupported e) :
    s.handle e = s.raise .evcode := by
  rcases h with hc | hc | hc | ⟨hc, hlen⟩ <;> simp only [State.handle, hc]
  case inr.inr.inr => exact State.upperReady_of_length_ne hlen
  all_goals rfl

/-- The three ways a retransmission timeout is spurious (R93, R145). -/
theorem State.genuineRetx_eq_false_iff {q : Nat} : s.genuineRetx q = false ↔
    s.cfg.maxSeq < q ∨ s.outstanding q = false ∨ s.armedAt q = false := by
  simp only [State.genuineRetx, Bool.and_eq_false_iff, decide_eq_false_iff_not, not_le, or_assoc]

theorem State.retxTimeout_of_not_genuine {q : Nat} (h : s.genuineRetx q = false) :
    s.retxTimeout q = s.raise .spurious := if_neg (Bool.eq_false_iff.mp h)

theorem State.ackTimeout_of_not_armed (h : s.ackArmed = false) : s.ackTimeout = s.raise .spurious :=
  if_neg (Bool.eq_false_iff.mp h)

/-! ### The step on an event -/

/-- Only an oversize buffer keeps a descriptor from decoding (R90). -/
theorem decodeEvent_of_code_ne {c : Config} {e : Event} (h : e.code ≠ 3#3) :
    ∃ i, decodeEvent c e = .ok i := by
  unfold decodeEvent
  rcases event_codes e.code with hc | hc | hc | hc | hc | hc | hc | hc
  case inr.inr.inr.inl => exact absurd hc h
  all_goals exact ⟨_, by simp only [hc]; rfl⟩

/-- A step on a descriptor that decodes is the entry, the handler, and the return (R201, R233, R235). -/
theorem step_of_event {e : Event} {rest : List Input} {i : Instr} (hl : s.cfg.legal = true)
    (hx : s.inputs = .event e :: rest) (hd : decodeEvent s.cfg e = .ok i) :
    step s = .next ((s.beginStep rest).handle e).finishStep := by
  have hexec : exec i (s.beginStep rest) = .next ((s.beginStep rest).handle e) := handle_eq_exec hd
  rw [step, State.fetch_operation hl hx hd]
  exact congrArg finishOutcome hexec

theorem step_unsupported {e : Event} {rest : List Input} (hl : s.cfg.legal = true)
    (hx : s.inputs = .event e :: rest) (h : s.Unsupported e) :
    step s = .next ((s.beginStep rest).raise .evcode).finishStep := by
  obtain ⟨i, hd⟩ := decodeEvent_of_code_ne (c := s.cfg) h.code_ne
  rw [step_of_event hl hx hd, State.handle_unsupported (s := s.beginStep rest) h]

end ErrorRecords

/-! ### The statements -/

/-- Settles O25: a reserved code and a packet of the wrong length have one handler, which raises
`ERR.EVCODE`; the rest of the step is its entry and its return. -/
theorem reservedCodesSetEvcode : Obligations.ReservedCodesSetEvcode := by
  intro s e rest
  exact ⟨⟨rfl, rfl, rfl⟩, fun hl hx h => step_unsupported hl hx h⟩

/-- Settles O34: each of the causes fails one of the handler's tests, and then it only raises
`ERR.SPURIOUS`. -/
theorem spuriousTimeoutsOnlyRecorded : Obligations.SpuriousTimeoutsOnlyRecorded := by
  intro s q
  constructor
  · intro h
    exact congrArg Host.Outcome.next
      (State.retxTimeout_of_not_genuine (State.genuineRetx_eq_false_iff.mpr h))
  · intro h
    exact congrArg Host.Outcome.next (State.ackTimeout_of_not_armed h)

end Sys2Proof.Machine

/-! PROOF. The frame codec as operations (R86, R111, R115): which buffers DECODE takes for a frame of each kind,
one lemma per test of the rule, and the two statements that follow: DecodeClassifiesBuffer, EncodeBuildsWireFrame. -/

namespace Sys2Proof

/-! ### Lengths of the wire format -/

theorem Config.ctrlLen_eq : Config.ctrlLen = 6 := rfl

theorem Config.minLen_eq : Config.minLen = 6 := rfl

theorem Config.dataLen_eq (c : Config) : c.dataLen = c.fixedLen + 7 := by
  unfold Config.dataLen Config.dataHdr Config.ckLen
  omega

theorem encodeFrame_length (c : Config) (f : Frame) : (encodeFrame c f).length = f.header.length + 4 :=
  List.length_append

theorem encodeFrame_data_length (c : Config) (a q : Nat) (p : Bytes) :
    (encodeFrame c (.data a q p)).length = p.length + 7 := encodeFrame_length c _

/-! ### The fields of a buffer -/

/-- A buffer whose kind, exact length and field ranges are those of a DATA frame (R80, R82, R115). -/
structure Config.DataFits (c : Config) (b : Bytes) : Prop where
  kind   : byteOf b 0 = 0x01#8
  length : b.length = c.fixedLen + 7
  ack    : (byteOf b 1).toNat ≤ c.maxSeq
  seq    : (byteOf b 2).toNat ≤ c.maxSeq

/-- A buffer of that kind byte whose exact length and `ack` are those of an ACK or NAK frame (R80, R82,
R115). -/
structure Config.ControlFits (c : Config) (kind : Byte) (b : Bytes) : Prop where
  kind   : byteOf b 0 = kind
  length : b.length = 6
  ack    : (byteOf b 1).toNat ≤ c.maxSeq

/-! ### DECODE, test by test -/

section Decoding

variable {c : Config} {b : Bytes}

theorem decodeFrame_of_short (h : b.length < 6) : decodeFrame c b = .corruptFrame := if_pos h

theorem decodeFrame_of_check_ne (h : c.check b ≠ 0#32) : decodeFrame c b = .corruptFrame := by
  unfold decodeFrame
  rw [if_pos h, ite_self]

/-- DATA, the first of the tests of a verified buffer's kind byte. -/
theorem decodeFrame_of_dataFits (hck : c.check b = 0#32) (h : c.DataFits b) :
    decodeFrame c b =
      .data (byteOf b 1).toNat (byteOf b 2).toNat ((b.drop 3).take c.fixedLen) := by
  obtain ⟨hk, hl, ha, hq⟩ := h
  have hmin : ¬ c.fixedLen + 7 < Config.minLen := Nat.not_lt.mpr (Nat.le_add_left 6 _)
  simp [decodeFrame, hmin, hck, hk, hl, c.dataLen_eq, ha.not_gt, hq.not_gt]

theorem decodeFrame_of_ackFits (hck : c.check b = 0#32) (h : c.ControlFits 0x02#8 b) :
    decodeFrame c b = .ack (byteOf b 1).toNat := by
  obtain ⟨hk, hl, ha⟩ := h
  simp [decodeFrame, Config.minLen_eq, Config.ctrlLen_eq, hck, hk, hl, ha.not_gt]

theorem decodeFrame_of_nakFits (hck : c.check b = 0#32) (h : c.ControlFits 0x03#8 b) :
    decodeFrame c b = .nak (byteOf b 1).toNat := by
  obtain ⟨hk, hl, ha⟩ := h
  simp [decodeFrame, Config.minLen_eq, Config.ctrlLen_eq, hck, hk, hl, ha.not_gt]

/-- A verified buffer that fits no kind: the kind byte is unknown, or it names a kind and a length or range
test of that kind fails. -/
theorem decodeFrame_of_not_fits (hlen : 6 ≤ b.length) (hck : c.check b = 0#32) (hd : ¬ c.DataFits b)
    (ha : ¬ c.ControlFits 0x02#8 b) (hn : ¬ c.ControlFits 0x03#8 b) :
    decodeFrame c b = .malformedFrame := by
  have hmin : ¬ b.length < Config.minLen := Nat.not_lt.mpr hlen
  unfold decodeFrame
  rw [if_neg hmin, if_neg (not_not.mpr hck)]
  dsimp only
  split_ifs with hk1 hl hr hk2 hl hr hk3 hl hr
  case neg =>
    obtain ⟨hack, hseq⟩ := not_or.mp hr
    have hlen : b.length = c.fixedLen + 7 := (not_not.mp hl).trans c.dataLen_eq
    exact absurd ⟨hk1, hlen, Nat.le_of_not_lt hack, Nat.le_of_not_lt hseq⟩ hd
  case neg => exact absurd ⟨hk2, not_not.mp hl, Nat.le_of_not_lt hr⟩ ha
  case neg => exact absurd ⟨hk3, not_not.mp hl, Nat.le_of_not_lt hr⟩ hn
  all_goals rfl

end Decoding

namespace Machine

/-! ### The two operations -/

theorem exec_encode (k : FrameKind) (a q : Nat) (p : Bytes) (s : State) :
    exec (.encode k a q p) s =
      .next { s with result := .bytes (encodeFrame s.cfg (.ofOperands k a q p)) } := rfl

theorem exec_decode (b : Bytes) (s : State) :
    exec (.decode b) s = .next { s with result := .frame (decodeFrame s.cfg b) } := rfl

/-! ### The statements -/

/-- Settles O4: the result is `decodeFrame` of the buffer, and each clause is one of its tests. -/
theorem decodeClassifiesBuffer : Obligations.DecodeClassifiesBuffer := by
  intro s b
  refine ⟨decodeFrame s.cfg b, exec_decode b s, decodeFrame_of_short,
    fun _ => decodeFrame_of_check_ne, fun hlen hck => ⟨?data, ?ack, ?nak, ?malformed⟩⟩
  case data =>
    rintro ⟨hk, hl, ha, hq⟩
    exact decodeFrame_of_dataFits hck ⟨hk, hl, ha, hq⟩
  case ack =>
    rintro ⟨hk, hl, ha⟩
    exact decodeFrame_of_ackFits hck ⟨hk, hl, ha⟩
  case nak =>
    rintro ⟨hk, hl, ha⟩
    exact decodeFrame_of_nakFits hck ⟨hk, hl, ha⟩
  case malformed =>
    intro hd ha hn
    exact decodeFrame_of_not_fits hlen hck (fun ⟨hk, hl, ha, hq⟩ => hd ⟨hk, hl, ha, hq⟩)
      (fun ⟨hk, hl, h⟩ => ha ⟨hk, hl, h⟩) (fun ⟨hk, hl, h⟩ => hn ⟨hk, hl, h⟩)

/-- Settles O3: ENCODE answers the header of the frame its operands name, then the trailer of that header, and
the header is 3 bytes more than the payload, or 2. -/
theorem encodeBuildsWireFrame : Obligations.EncodeBuildsWireFrame := by
  intro s a q p _
  refine ⟨fun _ hp => ⟨exec_encode .data a q p s, ?_⟩, exec_encode .ack a q p s,
    exec_encode .nak a q p s, encodeFrame_length s.cfg (.ack a), encodeFrame_length s.cfg (.nak a)⟩
  exact (encodeFrame_data_length s.cfg a q p).trans (congrArg (· + 7) hp)

end Machine

end Sys2Proof

/-! PROOF. BETWEEN as an operation (R132): membership in a ring interval, and the statement that follows:
BetweenReturnsMembership. -/

namespace Sys2Proof.Machine

/-- The three clauses of R132, as propositions. -/
theorem between_iff (a b c : Nat) :
    between a b c = true ↔ (a ≤ b ∧ b < c) ∨ (c < a ∧ a ≤ b) ∨ (c < a ∧ b < c) := by
  simp only [between, Bool.or_eq_true, Bool.and_eq_true, decide_eq_true_eq, or_assoc]

theorem exec_between (a b c : Nat) (s : State) :
    exec (.between a b c) s = .next { s with result := .truth (between a b c) } := rfl

/-- Settles O7: the value is `between`, and each corner case is one of its edge laws. -/
theorem betweenReturnsMembership : Obligations.BetweenReturnsMembership := by
  intro s a b c
  refine ⟨between a b c, exec_between a b c s, between_iff a b c, ?empty, ?lower, ?upper⟩
  case empty =>
    rintro rfl
    exact between_empty a b
  case lower =>
    rintro rfl hne
    exact between_lower hne
  case upper =>
    rintro rfl
    exact between_upper a b

end Sys2Proof.Machine

/-! PROOF. The Timer Set as operations (R140, R141, R142) and the deferred acknowledgment's expiry (R192, R146):
what a write to one timer entry does to every entry, the whole state after each operation, and the four statements
that follow: ArmRtReplacesEntry, CancelRtDisarmsEntry, ArmAckRestartsDeferral, AckTimeoutSendsAck. -/

namespace Sys2Proof.Machine

/-! ### One entry of a per-slot table -/

/-- A table with one entry per slot, after a write to the entry of `q`. Every slot is one of the table's, so the
write is never lost (R27, R35). -/
theorem getD_set_slot {α : Type} {c : Config} (hl : c.legal = true) {table : List α}
    (hlen : table.length = c.w) (q i : Nat) (x default : α) :
    (table.set (slot c q) x).getD i default = if i = slot c q then x else table.getD i default := by
  have hslot : slot c q < table.length := hlen ▸ slot_lt hl q
  rw [List.getD_eq_getElem?_getD, List.getD_eq_getElem?_getD]
  split_ifs with hi
  · rw [hi, List.getElem?_set_self hslot, Option.getD_some]
  · rw [List.getElem?_set_ne (Ne.symm hi)]

section TimerEntries

variable {s : State}

theorem State.armRt_rtArmed_getD (hl : s.cfg.legal = true) (hs : s.Shaped) (q d i : Nat) :
    (s.armRt q d).rtArmed.getD i false = (s.rtArmed.getD i false || decide (i = slot s.cfg q)) := by
  rw [State.armRt_rtArmed, getD_set_slot hl hs.armed_length]
  split_ifs with hi <;> simp [hi]

theorem State.armRt_rtDelay_getD (hl : s.cfg.legal = true) (hs : s.Shaped) (q d i : Nat) :
    (s.armRt q d).rtDelay.getD i 0 = if i = slot s.cfg q then d else s.rtDelay.getD i 0 :=
  getD_set_slot hl hs.delay_length q i d 0

theorem State.cancelRt_rtArmed_getD (hl : s.cfg.legal = true) (hs : s.Shaped) (q i : Nat) :
    (s.cancelRt q).rtArmed.getD i false = (s.rtArmed.getD i false && !decide (i = slot s.cfg q)) := by
  rw [State.cancelRt_rtArmed, getD_set_slot hl hs.armed_length]
  split_ifs with hi <;> simp [hi]

end TimerEntries

/-! ### The whole state after an operation -/

section WholeStates

variable {s : State}

/-- CANCEL_RT writes the armed bits and, for an armed entry only, the actions (R141). -/
theorem State.cancelRt_eq (q : Nat) : s.cancelRt q =
    { s with
      rtArmed := (s.cancelRt q).rtArmed,
      actions := if s.armedAt q then s.actions ++ [.cancelRt q] else s.actions } := by
  unfold State.cancelRt
  split <;> rfl

/-- CANCEL_ACK writes the armed bit and the actions; `cancelAck_actions` says which actions (R143). -/
theorem State.cancelAck_frame : s.cancelAck =
    { s with ackArmed := false, actions := s.cancelAck.actions } := by
  unfold State.cancelAck
  split <;> rfl

/-- SEND_ACK takes the channel, then cancels a pending deferred acknowledgment (R157, R171). -/
theorem State.sendAck_eq : s.sendAck =
    { s with
      chanReady := false,
      ackArmed := false,
      actions := s.actions ++
        .tx (encodeFrame s.cfg (.ack s.ackval)) :: if s.ackArmed then [.cancelAck] else [] } := by
  rw [show Frame.ack s.ackval = s.frameOf .ack 0 from rfl, ← State.transmit_actions]
  exact State.cancelAck_frame

theorem State.ackTimeout_of_armed (h : s.ackArmed = true) : s.ackTimeout = s.disarmAck.sendAck := if_pos h

end WholeStates

/-! ### The statements -/

/-- Settles O10: ARM_RT writes the entry of `slot(q)` in both tables, armed or not. -/
theorem armRtReplacesEntry : Obligations.ArmRtReplacesEntry := by
  intro s q d hl hs _
  exact ⟨s.armRt q d, rfl, rfl, fun i _ => State.armRt_rtArmed_getD hl hs q d i,
    fun i _ => State.armRt_rtDelay_getD hl hs q d i⟩

/-- Settles O11: CANCEL_RT clears the armed bit of `slot(q)`, whose old value decides the action. -/
theorem cancelRtDisarmsEntry : Obligations.CancelRtDisarmsEntry := by
  intro s q hl hs _
  exact ⟨s.cancelRt q, rfl, State.cancelRt_eq q, fun i _ => State.cancelRt_rtArmed_getD hl hs q i⟩

/-- Settles O12: ARM_ACK makes no test, so its one meaning is the statement. -/
theorem armAckRestartsDeferral : Obligations.ArmAckRestartsDeferral := fun _ _ => rfl

/-- Settles O36: the expiry disarms the entry before SEND_ACK, which therefore cancels nothing; with the entry
unarmed the handler only raises `ERR.SPURIOUS`. -/
theorem ackTimeoutSendsAck : Obligations.AckTimeoutSendsAck := by
  intro s
  constructor
  · intro h
    have hsent : s.ackTimeout = s.disarmAck.sendAck := State.ackTimeout_of_armed h
    rw [State.sendAck_eq] at hsent
    exact congrArg Host.Outcome.next hsent
  · intro h
    exact congrArg Host.Outcome.next (State.ackTimeout_of_not_armed h)

end Sys2Proof.Machine

/-! PROOF. The Sender Window's operations (R155 to R161): the whole state after TRANSMIT, RESEND
and NAK_RESEND, ACK_THROUGH as a number of retirements, and the five statements that follow:
SubmitStoresPacket, TransmitSendsFrame, ResendTransmitsAndArms, AckThroughRetiresUpTo, NakResendsSuccessor. -/

namespace Sys2Proof.Machine

/-! ### Places ahead on the ring and their slots -/

section RingPlaces

variable {c : Config} {a b d j k : Nat}

/-- Going forward by the forward distance arrives (R133). -/
theorem ahead_forward (ha : a ≤ c.maxSeq) (hb : b ≤ c.maxSeq) : ahead c a (forward c a b) = b := by
  have hr : c.r = c.maxSeq + 1 := rfl
  rw [ahead, forward, Nat.add_mod_mod, show a + (b + c.r - a) = b + c.r by omega, Nat.add_mod_right]
  exact Nat.mod_eq_of_lt (by omega)

/-- BETWEEN compares forward distances (R132, R133). -/
theorem between_iff_forward_lt (ha : a ≤ c.maxSeq) (hb : b ≤ c.maxSeq) (hd : d ≤ c.maxSeq) :
    between a b d = true ↔ forward c a b < forward c a d := by
  have hr : c.r = c.maxSeq + 1 := rfl
  rw [between_iff, forward_eq ha hb, forward_eq ha hd]
  split_ifs <;> omega

/-- `R` is a multiple of `W`, so the wrap of the ring does not show in the slot (R131). -/
theorem slot_ahead (hl : c.legal = true) (a k : Nat) : slot c (ahead c a k) = (a + k) % c.w :=
  Nat.mod_mod_of_dvd _ ⟨2, by rw [Nat.mul_comm, Config.two_w hl]⟩

/-- Two of `W` consecutive places with one slot are one place (R131). -/
theorem slot_ahead_inj (hl : c.legal = true) (hj : j < c.w) (hk : k < c.w)
    (h : slot c (ahead c a j) = slot c (ahead c a k)) : j = k := by
  rw [slot_ahead hl, slot_ahead hl] at h
  exact (Nat.ModEq.add_left_cancel' a h).eq_of_lt_of_lt hj hk

end RingPlaces

/-! ### The whole state after TRANSMIT, RESEND and NAK_RESEND -/

section SenderStates

variable (s : State)

/-- TRANSMIT takes the channel and cancels a pending deferred acknowledgment; a NAK sets suppression (R157). -/
theorem State.transmit_eq (k : FrameKind) (q : Nat) : s.transmit k q =
    { s with
      chanReady := false,
      ackArmed := false,
      nakSuppressed := if k = .nak then true else s.nakSuppressed,
      actions := s.actions ++
        .tx (encodeFrame s.cfg (s.frameOf k q)) :: if s.ackArmed then [.cancelAck] else [] } := by
  rw [← State.transmit_actions]
  cases k with
  | data => exact State.cancelAck_frame
  | ack => exact State.cancelAck_frame
  | nak => exact congrArg State.suppressNak State.cancelAck_frame

/-- RESEND is TRANSMIT of the DATA frame, then ARM_RT with `T_DATA` (R158). -/
theorem State.resend_eq (q : Nat) : s.resend q =
    { s with
      chanReady := false,
      ackArmed := false,
      rtArmed := s.rtArmed.set (slot s.cfg q) true,
      rtDelay := s.rtDelay.set (slot s.cfg q) s.cfg.tData,
      actions := s.actions ++ .tx (encodeFrame s.cfg (s.frameOf .data q)) ::
        ((if s.ackArmed then [.cancelAck] else []) ++ [.armRt q s.cfg.tData]) } := by
  rw [← State.resend_actions, State.resend, State.transmit_eq]
  rfl

theorem State.nakResend_of_outstanding {a : Nat} (h : s.outstanding (inc s.cfg a) = true) :
    s.nakResend a = s.resend (inc s.cfg a) := if_pos h

theorem State.nakResend_of_not_outstanding {a : Nat} (h : s.outstanding (inc s.cfg a) = false) :
    s.nakResend a = s := if_neg (Bool.eq_false_iff.mp h)

end SenderStates

/-! ### ACK_THROUGH is a number of retirements (R160) -/

section Retirements

variable {s : State} {a : Nat}

/-- Outside the window the loop ends at once, whatever its bound. -/
theorem State.retireWhile_outside (fuel : Nat) (h : s.outstanding a = false) :
    State.retireWhile fuel a s = s := by
  cases fuel with
  | zero => rfl
  | succ n => exact if_neg (Bool.eq_false_iff.mp h)

theorem State.retireWhile_inside (fuel : Nat) (h : s.outstanding a = true) :
    State.retireWhile (fuel + 1) a s = State.retireWhile fuel a s.retire := if_pos h

/-- A retirement from a window that is not empty keeps the sender invariant (R24). -/
theorem State.retire_consistent (h : s.senderWindow.Consistent) (hout : s.outstanding a = true) :
    s.retire.senderWindow.Consistent :=
  s.retire_senderWindow ▸ h.retire (s.edges_ne_of_outstanding hout)

/-- The outstanding sequences are the `buffered_count` places from `ack_expected` on (R15, R24). -/
theorem State.outstanding_iff (h : s.senderWindow.Consistent) (ha : a ≤ s.cfg.maxSeq) :
    s.outstanding a = true ↔ forward s.cfg s.ackExpected a < s.bufferedCount := by
  obtain ⟨-, hack, hnext, hcount, -⟩ := h
  rw [show s.bufferedCount = forward s.cfg s.ackExpected s.nextToSend from hcount]
  exact between_iff_forward_lt hack ha hnext

/-- Once `ack_expected` itself is retired it is outside the window. -/
theorem State.retire_not_outstanding (h : s.senderWindow.Consistent)
    (hout : s.outstanding s.ackExpected = true) : s.retire.outstanding s.ackExpected = false := by
  have hack : s.ackExpected ≤ s.cfg.maxSeq := h.ack_expected
  have hbound : s.bufferedCount ≤ s.cfg.w := h.bound
  have hw : s.cfg.w < s.cfg.maxSeq + 1 := Config.w_lt_r h.legal
  have hr : s.cfg.r = s.cfg.maxSeq + 1 := rfl
  rw [← Bool.not_eq_true, State.outstanding_iff (State.retire_consistent h hout) (by simpa using hack),
    State.retire_cfg, State.retire_ackExpected, State.retire_bufferedCount,
    forward_eq (inc_le _) hack, inc_eq hack]
  split_ifs <;> omega

/-- The loop retires the sequences from `ack_expected` through `a`, one each round, and stops (R160). -/
theorem State.retireWhile_eq_iterate (h : s.senderWindow.Consistent) (ha : a ≤ s.cfg.maxSeq) {n fuel : Nat}
    (hn : forward s.cfg s.ackExpected a = n) (hout : s.outstanding a = true) (hfuel : n < fuel) :
    State.retireWhile fuel a s = State.retire^[n + 1] s := by
  have hack : s.ackExpected ≤ s.cfg.maxSeq := h.ack_expected
  induction n generalizing s fuel with
  | zero =>
    obtain ⟨fuel, rfl⟩ := Nat.exists_eq_add_one.mpr hfuel
    have heq : s.ackExpected = a := by simpa [hn, ahead_zero hack] using ahead_forward hack ha
    subst heq
    rw [State.retireWhile_inside fuel hout,
      State.retireWhile_outside fuel (State.retire_not_outstanding h hout)]
    rfl
  | succ n ih =>
    obtain ⟨fuel, rfl⟩ := Nat.exists_eq_add_one.mpr (Nat.zero_lt_of_lt hfuel)
    have hne : s.ackExpected ≠ a := by
      rintro rfl
      simp [forward_eq hack hack] at hn
    have hn' : forward s.retire.cfg s.retire.ackExpected a = n := by
      simp [forward_inc_left hack ha hne, hn]
    have hcons := State.retire_consistent h hout
    have ha' : a ≤ s.retire.cfg.maxSeq := by simpa using ha
    have hout' : s.retire.outstanding a = true := by
      have := (State.outstanding_iff h ha).mp hout
      rw [State.outstanding_iff hcons ha', hn', State.retire_bufferedCount]
      omega
    rw [State.retireWhile_inside fuel hout, Function.iterate_succ_apply]
    exact ih hcons ha' hn' hout' (by omega) hcons.ack_expected

/-- ACK_THROUGH inside the window retires `((a - ack_expected) mod R) + 1` times (R160). -/
theorem State.ackThrough_inside (h : s.senderWindow.Consistent) (ha : a ≤ s.cfg.maxSeq)
    (hout : s.outstanding a = true) :
    s.ackThrough a = State.retire^[forward s.cfg s.ackExpected a + 1] s :=
  State.retireWhile_eq_iterate h ha rfl hout (Nat.mod_lt _ Config.r_pos)

end Retirements

/-! ### The state after `n` retirements -/

section RetiredStates

variable {s : State}

/-- One retirement writes the lower edge, the count, the armed bits and the actions (R160). -/
theorem State.retire_frame : s.retire =
    { s with
      ackExpected := inc s.cfg s.ackExpected,
      bufferedCount := s.bufferedCount - 1,
      rtArmed := s.retire.rtArmed,
      actions := s.retire.actions } := by
  rw [State.retire, State.cancelRt_eq]

/-- `n` retirements move the lower edge and the count by `n`; only the armed bits and the actions follow. -/
theorem State.retire_iterate_frame (hack : s.ackExpected ≤ s.cfg.maxSeq) (n : Nat) : State.retire^[n] s =
    { s with
      ackExpected := ahead s.cfg s.ackExpected n,
      bufferedCount := s.bufferedCount - n,
      rtArmed := (State.retire^[n] s).rtArmed,
      actions := (State.retire^[n] s).actions } := by
  induction n with
  | zero => rw [ahead_zero hack]; rfl
  | succ n ih =>
    rw [Function.iterate_succ_apply']
    generalize State.retire^[n] s = u at ih
    obtain ⟨rt, acts, rfl⟩ : ∃ rt acts, u = { s with
        ackExpected := ahead s.cfg s.ackExpected n, bufferedCount := s.bufferedCount - n,
        rtArmed := rt, actions := acts } := ⟨_, _, ih⟩
    rw [← inc_ahead]
    exact State.retire_frame

theorem State.retire_iterate_cfg (hack : s.ackExpected ≤ s.cfg.maxSeq) (n : Nat) :
    (State.retire^[n] s).cfg = s.cfg := by
  rw [State.retire_iterate_frame hack]

theorem State.retire_iterate_ackExpected (hack : s.ackExpected ≤ s.cfg.maxSeq) (n : Nat) :
    (State.retire^[n] s).ackExpected = ahead s.cfg s.ackExpected n := by
  rw [State.retire_iterate_frame hack]

theorem State.retire_iterate_rtArmed_length (n : Nat) :
    (State.retire^[n] s).rtArmed.length = s.rtArmed.length := by
  induction n with
  | zero => rfl
  | succ n ih => rw [Function.iterate_succ_apply', State.retire_rtArmed, List.length_set, ih]

/-- After `n` retirements the entries of the first `n` places from `ack_expected` are unarmed, the others as
before (R141, R160). -/
theorem State.retire_iterate_rtArmed_getD (hl : s.cfg.legal = true) (hs : s.Shaped)
    (hack : s.ackExpected ≤ s.cfg.maxSeq) (n i : Nat) :
    (State.retire^[n] s).rtArmed.getD i false = (s.rtArmed.getD i false &&
      !((List.range n).any fun k => decide (slot s.cfg (ahead s.cfg s.ackExpected k) = i))) := by
  induction n with
  | zero => simp
  | succ n ih =>
    have hlen : (State.retire^[n] s).rtArmed.length = s.cfg.w :=
      (State.retire_iterate_rtArmed_length n).trans hs.armed_length
    rw [Function.iterate_succ_apply', State.retire_rtArmed, State.retire_iterate_cfg hack,
      State.retire_iterate_ackExpected hack, getD_set_slot hl hlen, ih, List.range_succ]
    split_ifs with hi
    · simp [hi]
    · simp [Ne.symm hi]

/-- Retiring fewer than `W` sequences leaves the entry of the next one alone: its slot is another (R131). -/
theorem State.retire_iterate_armedAt (hl : s.cfg.legal = true) (hs : s.Shaped)
    (hack : s.ackExpected ≤ s.cfg.maxSeq) {n : Nat} (hn : n < s.cfg.w) :
    (State.retire^[n] s).armedAt (ahead s.cfg s.ackExpected n) =
      s.armedAt (ahead s.cfg s.ackExpected n) := by
  have hapart : ∀ k < n, slot s.cfg (ahead s.cfg s.ackExpected k) ≠ slot s.cfg (ahead s.cfg s.ackExpected n) :=
    fun k hk he => hk.ne (slot_ahead_inj hl (hk.trans hn) hn he)
  rw [State.armedAt, State.retire_iterate_cfg hack, State.retire_iterate_rtArmed_getD hl hs hack, State.armedAt]
  simpa using fun _ => hapart

/-- Up to `W` retirements cancel, in order, the timers that were armed before the first of them (R160). -/
theorem State.retire_iterate_actions (hl : s.cfg.legal = true) (hs : s.Shaped)
    (hack : s.ackExpected ≤ s.cfg.maxSeq) {n : Nat} (hn : n ≤ s.cfg.w) :
    (State.retire^[n] s).actions = s.actions ++
      (((List.range n).map (ahead s.cfg s.ackExpected)).filter s.armedAt).map .cancelRt := by
  induction n with
  | zero => simp
  | succ n ih =>
    rw [Function.iterate_succ_apply', State.retire_actions, State.retire_iterate_ackExpected hack,
      State.retire_iterate_armedAt hl hs hack hn, ih (Nat.le_of_succ_le hn), List.range_succ]
    split_ifs with harmed <;> simp [harmed]

end RetiredStates

/-! ### The statements -/

/-- Settles O14: SUBMIT writes one slot of the outbox, and the laws of a slot write say the rest. -/
theorem submitStoresPacket : Obligations.SubmitStoresPacket := by
  intro s p hp
  refine ⟨(s.submit p).answer (.ring s.nextToSend), rfl, rfl, s.memRead_memWrite .outbox _ hp, ?_, ?_⟩
  · intro a ha
    exact s.byteAt_memWrite_outside .outbox _ p (hp ▸ ha)
  · intro a
    exact State.byteAt_congr rfl rfl a

/-- Settles O17: inside the window ACK_THROUGH is `n` retirements, which the sender invariant bounds by
`buffered_count`, and so by `W`. -/
theorem ackThroughRetiresUpTo : Obligations.AckThroughRetiresUpTo := by
  intro s a hl hs hring hsender ha
  obtain ⟨hcons, -⟩ := (State.ringRegs_and_senderInv_iff hl).mp ⟨hring, hsender⟩
  have hack := hring.ack_expected
  refine ⟨fun hout => congrArg Host.Outcome.next (s.ackThrough_outside hout), fun hout => ?_⟩
  intro n
  have hcount : n ≤ s.bufferedCount := (State.outstanding_iff hcons ha).mp hout
  have hedge : ahead s.cfg s.ackExpected n = (a + 1) % s.cfg.r := by
    rw [← inc_ahead, ahead_forward hack ha, inc]
  refine ⟨hcount, State.retire^[n] s, congrArg Host.Outcome.next (State.ackThrough_inside hcons ha hout), ?_,
    fun i _ => State.retire_iterate_rtArmed_getD hl hs hack n i⟩
  rw [← State.retire_iterate_actions hl hs hack (hcount.trans hsender.bound)]
  rw [← hedge]
  exact State.retire_iterate_frame hack n

/-- Settles O19: NAK_RESEND tests the successor and does nothing but RESEND it. -/
theorem nakResendsSuccessor : Obligations.NakResendsSuccessor := by
  intro s a _
  constructor
  · intro h
    exact ⟨_, rfl, congrArg Host.Outcome.next (s.nakResend_of_outstanding h)⟩
  · intro h
    exact congrArg Host.Outcome.next (s.nakResend_of_not_outstanding h)

/-- Settles O15: the one equation of TRANSMIT at each kind of frame. -/
theorem transmitSendsFrame : Obligations.TransmitSendsFrame := by
  intro s q
  exact ⟨congrArg Host.Outcome.next (s.transmit_eq .data q), congrArg Host.Outcome.next (s.transmit_eq .ack q),
    congrArg Host.Outcome.next (s.transmit_eq .nak q)⟩

/-- Settles O16: the equation of RESEND. -/
theorem resendTransmitsAndArms : Obligations.ResendTransmitsAndArms :=
  fun s q => congrArg Host.Outcome.next (s.resend_eq q)

end Sys2Proof.Machine

/-! PROOF. The Receiver Window's standalone frames (R171, R172): the whole state after SEND_NAK, and the statement
that follows: SendAckAndSendNak. -/

namespace Sys2Proof.Machine

/-- SEND_NAK does what SEND_ACK does, with the NAK frame, and sets suppression (R157, R172). -/
theorem State.sendNak_eq (s : State) : s.sendNak =
    { s with
      chanReady := false,
      ackArmed := false,
      nakSuppressed := true,
      actions := s.actions ++
        .tx (encodeFrame s.cfg (.nak s.ackval)) :: if s.ackArmed then [.cancelAck] else [] } :=
  s.transmit_eq .nak 0

/-- Settles O23: the equations of SEND_ACK and SEND_NAK, whose frames carry `ackval`. -/
theorem sendAckAndSendNak : Obligations.SendAckAndSendNak := by
  intro s
  exact ⟨congrArg Host.Outcome.next s.sendAck_eq, congrArg Host.Outcome.next s.sendNak_eq⟩

end Sys2Proof.Machine

/-! PROOF. The event handlers and the branches of FRAME_RECEIVED (R180 to R188), ADMISSION and STEP (R200, R201):
which branch a handler takes, said once, and the statements that follow: UpperReadySubmitsOrRefuses,
CorruptBufferNakOrDefer, DataFrameProcessing, AdmissionRecomputed, ChannelReadyIsIdempotent,
FrameReceivedBranches, MalformedBufferOnlyRecorded, NakFrameProcessing, AckFrameProcessing,
StepOperationIsHandlerThenAdmission. -/

namespace Sys2Proof.Machine

/-! ### UPPER_READY and CHANNEL_READY -/

section UpperLayer

variable {s : State} {p : Bytes}

theorem State.admissible_iff : s.admissible = true ↔ s.bufferedCount < s.cfg.w ∧ s.chanReady = true := by
  simp only [State.admissible, Bool.and_eq_true, decide_eq_true_eq]

theorem State.upperReady_of_not_admissible (hlen : p.length = s.cfg.fixedLen)
    (h : s.admissible = false) : s.upperReady p = s.raise .adm := by
  simp [State.upperReady, hlen, h]

theorem State.upperReady_of_admissible (hlen : p.length = s.cfg.fixedLen)
    (h : s.admissible = true) : s.upperReady p = (s.submit p).resend s.nextToSend := by
  simp [State.upperReady, hlen, h]

theorem State.memRead_submit (hlen : p.length = s.cfg.fixedLen) :
    (s.submit p).memRead .outbox (slot s.cfg s.nextToSend) = p :=
  s.memRead_memWrite .outbox _ hlen

/-- The first transmission of a submitted packet carries the packet itself (R157, R158, R180). -/
theorem State.submit_frameOf (hlen : p.length = s.cfg.fixedLen) :
    (s.submit p).frameOf .data s.nextToSend = .data s.ackval s.nextToSend p :=
  congrArg (Frame.data s.ackval s.nextToSend) (State.memRead_submit hlen)

@[simp] theorem State.resend_byteAt (s : State) (q : Nat) (sp : Space) (a : Nat) :
    (s.resend q).byteAt sp a = s.byteAt sp a :=
  State.byteAt_congr (by cases sp <;> simp) (by simp) a

@[simp] theorem State.resend_memRead (s : State) (q : Nat) (sp : Space) (i : Nat) :
    (s.resend q).memRead sp i = s.memRead sp i := by
  simp [State.memRead]

/-- An admitted packet: the window of SUBMIT, the frame and the timer of RESEND (R155, R158, R180). -/
theorem State.submit_resend_eq (hlen : p.length = s.cfg.fixedLen) :
    (s.submit p).resend s.nextToSend =
      { s with
        outbox := (s.submit p).outbox,
        bufferedCount := s.bufferedCount + 1,
        nextToSend := inc s.cfg s.nextToSend,
        chanReady := false,
        ackArmed := false,
        rtArmed := s.rtArmed.set (slot s.cfg s.nextToSend) true,
        rtDelay := s.rtDelay.set (slot s.cfg s.nextToSend) s.cfg.tData,
        actions := s.actions ++ .tx (encodeFrame s.cfg (.data s.ackval s.nextToSend p)) ::
          ((if s.ackArmed then [.cancelAck] else []) ++ [.armRt s.nextToSend s.cfg.tData]) } := by
  rw [State.resend_eq, State.submit_frameOf hlen]
  rfl

/-- A second CHANNEL_READY changes nothing (R182). -/
theorem State.noteChannelReady_of_ready (h : s.chanReady = true) : s.noteChannelReady = s := by
  rw [State.noteChannelReady, ← h]

end UpperLayer

/-! ### The branches of FRAME_RECEIVED -/

section Branches

variable {s : State} {b : Bytes} {claimed : Option Byte}

/-- The claimed sequence is byte 2 of a buffer that has one (R120). -/
theorem State.claims_claimedSeq_iff :
    s.claims (claimedSeq b) = true ↔ 3 ≤ b.length ∧ (b.getD 2 0#8).toNat = s.expected := by
  unfold claimedSeq
  split_ifs with hlen
  · simp [State.claims, byteOf, hlen]
  · simp [State.claims, hlen]

theorem State.rxCorrupt_of_nak (h : s.nakSuppressed = false ∨ s.claims claimed = true) :
    s.rxCorrupt claimed = (s.classify .corrupt).sendNak := by
  apply if_pos
  rwa [Bool.or_eq_true, Bool.not_eq_true']

theorem State.rxCorrupt_of_defer (h : ¬(s.nakSuppressed = false ∨ s.claims claimed = true)) :
    s.rxCorrupt claimed = (s.classify .corrupt).armAck s.cfg.tAck := by
  apply if_neg
  rwa [Bool.or_eq_true, Bool.not_eq_true']

theorem State.nakOrDefer_of_nak {q : Nat} (hne : q ≠ s.expected) (hoff : s.nakSuppressed = false) :
    s.nakOrDefer q = s.sendNak := by
  simp [State.nakOrDefer, hne, hoff]

theorem State.nakOrDefer_of_defer {q : Nat} (h : q = s.expected ∨ s.nakSuppressed = true) :
    s.nakOrDefer q = s.armAck s.cfg.tAck := by
  rcases h with h | h <;> simp [State.nakOrDefer, h]

@[simp] theorem State.nakOrDefer_cfg (s : State) (q : Nat) : (s.nakOrDefer q).cfg = s.cfg := by
  rcases s.nakOrDefer_cases q with ⟨-, -, h⟩ | ⟨-, h⟩ <;> simp [h, State.sendNak]

@[simp] theorem State.nakOrDefer_result (s : State) (q : Nat) : (s.nakOrDefer q).result = s.result := by
  rcases s.nakOrDefer_cases q with ⟨-, -, h⟩ | ⟨-, h⟩ <;> simp [h, State.sendNak]

/-- The deliveries after ON_DATA, as one update of the state `u` that ON_DATA leaves (R186). -/
theorem State.deliveries_eq {u : State} (hd : u.cfg.tAck = s.cfg.tAck) (hr : u.result = s.result)
    (c : FrameClass) (out : List Bytes) :
    out.foldl State.deliver (u.classify c) =
      { u with
        result := s.result,
        cls := c,
        nakSuppressed := u.nakSuppressed && out.isEmpty,
        ackArmed := u.ackArmed || !out.isEmpty,
        ackDelay := if out.isEmpty then u.ackDelay else s.cfg.tAck,
        actions := u.actions ++ out.flatMap fun x => [.deliver x, .armAck s.cfg.tAck] } := by
  rw [← hr, ← hd]
  exact (u.classify c).deliver_foldl out

/-! ### FRAME_RECEIVED on each decode result -/

theorem State.frameReceived_of_corrupt (h : decodeFrame s.cfg b = .corruptFrame) :
    s.frameReceived b = s.rxCorrupt (claimedSeq b) := by rw [State.frameReceived, h]

theorem State.frameReceived_of_malformed (h : decodeFrame s.cfg b = .malformedFrame) :
    s.frameReceived b = s.rxMalformed := by rw [State.frameReceived, h]

theorem State.frameReceived_of_data {a q : Nat} {p : Bytes} (h : decodeFrame s.cfg b = .data a q p) :
    s.frameReceived b = s.rxData a q p := by rw [State.frameReceived, h]

theorem State.frameReceived_of_nak {a : Nat} (h : decodeFrame s.cfg b = .nak a) :
    s.frameReceived b = s.rxNak a := by rw [State.frameReceived, h]

theorem State.frameReceived_of_ack {a : Nat} (h : decodeFrame s.cfg b = .ack a) :
    s.frameReceived b = s.rxAck a := by rw [State.frameReceived, h]

end Branches

/-! ### ADMISSION and the handler of an event code -/

section Handlers

variable {s t : State} {e : Event}

/-- Every step that processes an input returns through ADMISSION (R200, R235). -/
theorem step_admissionInv (hx : s.inputs ≠ []) (h : step s = .next t) : t.AdmissionInv := by
  obtain ⟨-, ⟨hi, -⟩ | ⟨rest, -, rfl⟩ | ⟨e, rest, -, rfl⟩⟩ := step_handles h
  · exact absurd hi hx
  · rfl
  · rfl

theorem State.handle_upperReady (h : e.code = 1#3) : s.handle e = s.upperReady e.data := by
  rw [State.handle, h]; rfl

theorem State.handle_channelReady (h : e.code = 2#3) : s.handle e = s.noteChannelReady := by
  rw [State.handle, h]; rfl

theorem State.handle_frameReceived (h : e.code = 3#3) : s.handle e = s.frameReceived e.data := by
  rw [State.handle, h]; rfl

theorem State.handle_retxTimeout (h : e.code = 4#3) : s.handle e = s.retxTimeout e.seq.toNat := by
  rw [State.handle, h]; rfl

theorem State.handle_ackTimeout (h : e.code = 5#3) : s.handle e = s.ackTimeout := by
  rw [State.handle, h]; rfl

end Handlers

/-! ### The statements -/

/-- Settles O24: the two tests of UPPER_READY refuse, and an admitted packet is SUBMIT, then RESEND. -/
theorem upperReadySubmitsOrRefuses : Obligations.UpperReadySubmitsOrRefuses := by
  intro s p
  refine ⟨fun hlen => congrArg Host.Outcome.next (State.upperReady_of_length_ne hlen), ?_, ?_⟩
  · intro hlen hclosed
    have hadm : s.admissible = false := Bool.eq_false_iff.mpr (mt State.admissible_iff.mp hclosed)
    exact congrArg Host.Outcome.next (State.upperReady_of_not_admissible hlen hadm)
  · intro hlen hroom hready
    have hup := State.upperReady_of_admissible hlen (State.admissible_iff.mpr ⟨hroom, hready⟩)
    refine ⟨(s.submit p).resend s.nextToSend, congrArg Host.Outcome.next hup, ?_, ?_, ?_, ?_⟩
    · rw [State.resend_outbox]
      exact State.submit_resend_eq hlen
    · exact (State.resend_memRead _ _ _ _).trans (State.memRead_submit hlen)
    · intro a ha
      exact (State.resend_byteAt _ _ _ _).trans (s.byteAt_memWrite_outside .outbox _ p (hlen ▸ ha))
    · intro a
      exact (State.resend_byteAt _ _ _ _).trans (State.byteAt_congr rfl rfl a)

/-- Settles O28: suppression and the claimed sequence decide between SEND_NAK and ARM_ACK. -/
theorem corruptBufferNakOrDefer : Obligations.CorruptBufferNakOrDefer := by
  intro s b
  rw [← State.claims_claimedSeq_iff]
  refine ⟨fun h => ?_, fun h => ?_⟩
  · have hnak : exec (.rxCorrupt b) s = .next (s.classify .corrupt).sendNak :=
      congrArg Host.Outcome.next (State.rxCorrupt_of_nak h)
    exact ⟨_, rfl, hnak, hnak⟩
  · have hdefer : exec (.rxCorrupt b) s = .next ((s.classify .corrupt).armAck s.cfg.tAck) :=
      congrArg Host.Outcome.next (State.rxCorrupt_of_defer h)
    exact ⟨_, rfl, hdefer, hdefer⟩

/-- Settles O30: the deliveries are one update of the state ON_DATA leaves, and ACK_THROUGH runs on it. -/
theorem dataFrameProcessing : Obligations.DataFrameProcessing := by
  intro s a q p
  refine ⟨s.nakOrDefer q, _, s.rxData a q p, _, _, fun hne hoff => ?nak, fun h => ?defer, rfl, rfl, ?through,
    rfl, rfl⟩
  case nak => exact congrArg Host.Outcome.next (State.nakOrDefer_of_nak hne hoff).symm
  case defer => exact congrArg Host.Outcome.next (State.nakOrDefer_of_defer h).symm
  case through =>
    rw [State.rxData, State.deliveries_eq (s := s) (by simp) (by simp)]
    rfl

/-- Settles O37: every return from a handler is ADMISSION. -/
theorem admissionRecomputed : Obligations.AdmissionRecomputed := by
  intro s
  refine ⟨rfl, ?_, fun t hx h => step_admissionInv hx h⟩
  rintro t ⟨⟩
  rfl

/-- Settles O26: the handler is `noteChannelReady`. -/
theorem channelReadyIsIdempotent : Obligations.ChannelReadyIsIdempotent := by
  intro s
  refine ⟨rfl, fun h => congrArg Host.Outcome.next (State.noteChannelReady_of_ready h), ?_⟩
  simp [exec, execAdmission, State.admission, State.admissible]

/-- Settles O27: each decode result selects its branch. -/
theorem frameReceivedBranches : Obligations.FrameReceivedBranches := by
  intro s b
  refine ⟨s.frameReceived b, rfl, fun h => ?corrupt, fun h => ?malformed, fun a q p h => ?data,
    fun a h => ?nak, fun a h => ?ack⟩
  case corrupt => exact congrArg Host.Outcome.next (State.frameReceived_of_corrupt h).symm
  case malformed => exact congrArg Host.Outcome.next (State.frameReceived_of_malformed h).symm
  case data => exact congrArg Host.Outcome.next (State.frameReceived_of_data h).symm
  case nak => exact congrArg Host.Outcome.next (State.frameReceived_of_nak h).symm
  case ack => exact congrArg Host.Outcome.next (State.frameReceived_of_ack h).symm

/-- Settles O29: the branch classifies and raises. -/
theorem malformedBufferOnlyRecorded : Obligations.MalformedBufferOnlyRecorded := fun _ => ⟨rfl, rfl⟩

/-- Settles O32: the branch is NAK_RESEND, then ACK_THROUGH, by definition. -/
theorem nakFrameProcessing : Obligations.NakFrameProcessing := fun _ _ => ⟨_, _, rfl, rfl, rfl, rfl⟩

/-- Settles O33: the branch is ACK_THROUGH, which does nothing outside the window. -/
theorem ackFrameProcessing : Obligations.AckFrameProcessing := by
  intro s a
  refine ⟨⟨_, rfl, rfl, rfl⟩, fun h => ?_⟩
  exact congrArg Host.Outcome.next ((s.classify .ack).ackThrough_outside h)

/-- Settles O38: STEP is the handler the code selects, then ADMISSION. -/
theorem stepOperationIsHandlerThenAdmission : Obligations.StepOperationIsHandlerThenAdmission := by
  intro s e
  refine ⟨(s.classify .none).handle e, s.stepEvent e, fun hc => ?upper, fun hc => ?channel, fun hc => ?frame,
    fun hc => ?retx, fun hc => ?ack, fun hc => ?reserved, rfl, rfl⟩
  case upper => exact congrArg Host.Outcome.next (State.handle_upperReady hc).symm
  case channel => exact congrArg Host.Outcome.next (State.handle_channelReady hc).symm
  case frame => exact congrArg Host.Outcome.next (State.handle_frameReceived hc).symm
  case retx => exact congrArg Host.Outcome.next (State.handle_retxTimeout hc).symm
  case ack => exact congrArg Host.Outcome.next (State.handle_ackTimeout hc).symm
  case reserved => exact State.handle_unsupported (hc.imp_right (Or.imp_right Or.inl))

end Sys2Proof.Machine

/-! PROOF. RETX_TIMEOUT (R190, R191): the expiry re-arms a list of timers, one per outstanding sequence and each
in a slot of its own, and the statement that follows: RetxTimeoutResendsAndStaggers. -/

namespace Sys2Proof.Machine

/-! ### Arming a list of timers -/

/-- ARM_RT for each sequence and delay of a list, in order. -/
def State.armAll (l : List (Nat × Nat)) (s : State) : State := l.foldl (fun u x => u.armRt x.1 x.2) s

section ArmAll

variable {s : State} {l : List (Nat × Nat)}

theorem State.armAll_append (l l' : List (Nat × Nat)) (s : State) :
    State.armAll (l ++ l') s = State.armAll l' (State.armAll l s) := List.foldl_append

/-- Arming writes the timer entries and emits the ARM_RT actions in order; nothing else changes (R140). -/
theorem State.armAll_frame (l : List (Nat × Nat)) (s : State) : State.armAll l s =
    { s with
      rtArmed := (State.armAll l s).rtArmed,
      rtDelay := (State.armAll l s).rtDelay,
      actions := s.actions ++ l.map fun x => .armRt x.1 x.2 } := by
  induction l generalizing s with
  | nil => simp [State.armAll]
  | cons x l ih =>
    refine (ih (s.armRt x.1 x.2)).trans ?_
    simp [State.armAll, State.armRt, State.emit]

@[simp] theorem State.armAll_cfg (l : List (Nat × Nat)) (s : State) : (State.armAll l s).cfg = s.cfg := by
  rw [State.armAll_frame]

/-- Setting the bit of an armed entry changes nothing. -/
theorem State.set_rtArmed_of_armedAt {q : Nat} (h : s.armedAt q = true) :
    s.rtArmed.set (slot s.cfg q) true = s.rtArmed := by
  have hget : s.rtArmed[slot s.cfg q]? = some true := by
    simpa [State.armedAt, List.getD_eq_getElem?_getD, Option.getD_eq_iff] using h
  obtain ⟨hi, hbit⟩ := List.getElem?_eq_some_iff.mp hget
  exact hbit ▸ List.set_getElem_self hi

/-- Re-arming entries armed in `s` leaves the set of armed timers as it is in `s` (R144). -/
theorem State.armAll_rtArmed {u : State} (hcfg : u.cfg = s.cfg) (hu : u.rtArmed = s.rtArmed)
    (h : ∀ x ∈ l, s.armedAt x.1 = true) : (State.armAll l u).rtArmed = s.rtArmed := by
  induction l generalizing u with
  | nil => exact hu
  | cons x l ih =>
    obtain ⟨hx, hl⟩ := List.forall_mem_cons.mp h
    have harm : (u.armRt x.1 x.2).rtArmed = s.rtArmed := by
      rw [State.armRt_rtArmed, hcfg, hu, State.set_rtArmed_of_armedAt hx]
    exact ih hcfg harm hl

/-- An entry of no sequence of the list keeps its delay. -/
theorem State.armAll_rtDelay_getD (hl : s.cfg.legal = true) (hlen : s.rtDelay.length = s.cfg.w) {i : Nat}
    (h : ∀ x ∈ l, slot s.cfg x.1 ≠ i) : (State.armAll l s).rtDelay.getD i 0 = s.rtDelay.getD i 0 := by
  induction l generalizing s with
  | nil => rfl
  | cons x l ih =>
    obtain ⟨hx, hrest⟩ := List.forall_mem_cons.mp h
    refine (ih (s := s.armRt x.1 x.2) hl (by simpa using hlen) hrest).trans ?_
    rw [State.armRt_rtDelay, getD_set_slot hl hlen, if_neg hx.symm]

/-- Of sequences in different slots, each has the delay it was armed with. -/
theorem State.armAll_delayAt (hl : s.cfg.legal = true) (hlen : s.rtDelay.length = s.cfg.w)
    (hslots : (l.map fun x => slot s.cfg x.1).Nodup) {q d : Nat} (h : (q, d) ∈ l) :
    (State.armAll l s).delayAt q = d := by
  rw [State.delayAt, State.armAll_cfg]
  induction l generalizing s with
  | nil => cases h
  | cons x l ih =>
    obtain ⟨hx, hrest⟩ := List.nodup_cons.mp hslots
    have hlen' : (s.armRt x.1 x.2).rtDelay.length = s.cfg.w := by simpa using hlen
    rcases List.mem_cons.mp h with rfl | h
    · refine (State.armAll_rtDelay_getD (s := s.armRt q d) hl hlen' fun y hy he => hx ?_).trans ?_
      · exact List.mem_map.mpr ⟨y, hy, he⟩
      · rw [State.armRt_rtDelay, getD_set_slot hl hlen, if_pos rfl]
    · exact ih (s := s.armRt x.1 x.2) hl hlen' hrest h

end ArmAll

/-! ### The timers an expiry re-arms -/

/-- The sequences of `out` among those `ds` places ahead of `q`, in that order. -/
def outAhead (c : Config) (out : Nat → Bool) (q : Nat) (ds : List Nat) : List Nat :=
  (ds.map (ahead c q)).filter out

/-- The staggered delays of `qs`, of which the first gets `T_LONG + j * T_STEP` (R190). -/
def staggered (c : Config) (qs : List Nat) (j : Nat) : List (Nat × Nat) :=
  (qs.zipIdx j).map fun x => (x.1, c.tLong + x.2 * c.tStep)

/-- The timer of the successor of `q`, if the successor is one of `out` (R190). -/
def successorTimer (c : Config) (out : Nat → Bool) (q : Nat) : List (Nat × Nat) :=
  if out (inc c q) then [(inc c q, c.tShort)] else []

/-- The timers a genuine expiry of `q` re-arms when `out` is what is outstanding, with their delays and in
order: `q`, its successor, the others by forward distance (R190, R191). -/
def retxTimers (c : Config) (out : Nat → Bool) (q : Nat) : List (Nat × Nat) :=
  (q, c.tData) :: (successorTimer c out q ++ staggered c (outAhead c out q (List.range' 2 (c.r - 2))) 0)

section Timers

variable {c : Config} {out : Nat → Bool} {q : Nat}

theorem outAhead_cons (d : Nat) (ds : List Nat) : outAhead c out q (d :: ds) =
    if out (ahead c q d) then ahead c q d :: outAhead c out q ds else outAhead c out q ds := List.filter_cons

theorem outAhead_append (ds ds' : List Nat) :
    outAhead c out q (ds ++ ds') = outAhead c out q ds ++ outAhead c out q ds' := by
  simp only [outAhead, List.map_append, List.filter_append]

theorem staggered_fst (qs : List Nat) (j : Nat) : (staggered c qs j).map Prod.fst = qs := by
  rw [staggered, List.map_map]
  exact List.zipIdx_map_fst j qs

theorem successorTimer_fst : (successorTimer c out q).map Prod.fst = outAhead c out q [1] := by
  rw [outAhead_cons, successorTimer]
  exact apply_ite (List.map Prod.fst) _ _ _

/-- The timers are those of all the ring's outstanding sequences, from `q` on by forward distance. -/
theorem retxTimers_fst (hr : 2 ≤ c.r) (hq : q ≤ c.maxSeq) (hout : out q = true) :
    (retxTimers c out q).map Prod.fst = outAhead c out q (List.range c.r) := by
  have hrange : List.range c.r = 0 :: ([1] ++ List.range' 2 (c.r - 2)) := by
    obtain ⟨n, hn⟩ := Nat.exists_eq_add_of_le' hr
    rw [hn, List.range_eq_range', List.range'_succ, List.range'_succ]
    rfl
  rw [hrange, outAhead_cons, ahead_zero hq, if_pos hout, retxTimers, List.map_cons, List.map_append,
    successorTimer_fst, staggered_fst, outAhead_append]

/-- The ARM_RT actions of the timers (R190). -/
theorem retxTimers_actions : (retxTimers c out q).map (fun x => Action.armRt x.1 x.2) =
    .armRt q c.tData :: ((if out (inc c q) then [.armRt (inc c q) c.tShort] else []) ++
      (outAhead c out q (List.range' 2 (c.r - 2))).zipIdx.map fun x => .armRt x.1 (c.tLong + x.2 * c.tStep)) := by
  rw [retxTimers, List.map_cons, List.map_append, successorTimer, staggered, List.map_map, apply_ite (List.map _)]
  rfl

theorem mem_retxTimers_self : (q, c.tData) ∈ retxTimers c out q := List.mem_cons_self

theorem mem_retxTimers_successor (h : out (inc c q) = true) : (inc c q, c.tShort) ∈ retxTimers c out q := by
  simp [retxTimers, successorTimer, h]

/-- The timer of the `k`-th of the other sequences (R190). -/
theorem mem_retxTimers_other {k u : Nat} (h : (outAhead c out q (List.range' 2 (c.r - 2)))[k]? = some u) :
    (u, c.tLong + k * c.tStep) ∈ retxTimers c out q := by
  have hmem : (u, c.tLong + k * c.tStep) ∈ staggered c (outAhead c out q (List.range' 2 (c.r - 2))) 0 :=
    List.mem_map.mpr ⟨(u, k), List.mem_zipIdx_iff_getElem?.mpr h, rfl⟩
  exact List.mem_cons_of_mem _ (List.mem_append_right _ hmem)

/-- Places less than a turn ahead of one are different (R133). -/
theorem ahead_inj {a j k : Nat} (hj : j < c.r) (hk : k < c.r) (h : ahead c a j = ahead c a k) : j = k :=
  (Nat.ModEq.add_left_cancel' a h).eq_of_lt_of_lt hj hk

theorem outAhead_range_nodup : (outAhead c out q (List.range c.r)).Nodup :=
  (List.nodup_range.map_on fun _ hj _ hk h => ahead_inj (List.mem_range.mp hj) (List.mem_range.mp hk) h).filter _

theorem mem_outAhead {a : Nat} {ds : List Nat} (h : a ∈ outAhead c out q ds) :
    a ≤ c.maxSeq ∧ out a = true := by
  obtain ⟨hmap, hout⟩ := List.mem_filter.mp h
  obtain ⟨d, -, rfl⟩ := List.mem_map.mp hmap
  exact ⟨Nat.le_of_lt_succ (Nat.mod_lt _ Config.r_pos), hout⟩

end Timers

/-! ### A genuine expiry -/

section Expiry

variable {s : State} {q : Nat}

theorem State.outstanding_congr {u : State} (h : u.senderWindow = s.senderWindow) :
    u.outstanding = s.outstanding := by
  funext q
  exact congrArg (fun v : SenderWindow => between v.ackExpected q v.nextToSend) h

theorem State.stagger_eq_armAll (q : Nat) (ds : List Nat) (j : Nat) (s : State) : State.stagger q ds j s =
    State.armAll (staggered s.cfg (outAhead s.cfg s.outstanding q ds) j) s := by
  induction ds generalizing j s with
  | nil => rfl
  | cons d ds ih =>
    rw [State.stagger, outAhead_cons]
    by_cases hout : s.outstanding (ahead s.cfg q d) = true
    · rw [if_pos hout]
      exact (if_pos hout).trans (ih _ _)
    · rw [if_neg hout]
      exact (if_neg hout).trans (ih j s)

theorem State.armSuccessor_eq_armAll (s : State) (q : Nat) :
    s.armSuccessor q = State.armAll (successorTimer s.cfg s.outstanding q) s := by
  unfold State.armSuccessor successorTimer
  split <;> rfl

/-- A genuine expiry disarms the entry, transmits the frame again and re-arms the timers (R190, R191). -/
theorem State.retxTimeout_of_genuine (h : s.genuineRetx q = true) : s.retxTimeout q =
    State.armAll (retxTimers s.cfg s.outstanding q) ((s.disarmRt q).transmit .data q) := by
  have hsame (u : State) (hu : u.senderWindow = s.senderWindow) :
      u.outstanding = s.outstanding ∧ u.cfg = s.cfg :=
    ⟨State.outstanding_congr hu, congrArg SenderWindow.cfg hu⟩
  obtain ⟨hout, hcfg⟩ := hsame ((s.disarmRt q).resend q) (by simp)
  obtain ⟨hout', hcfg'⟩ := hsame (((s.disarmRt q).resend q).armSuccessor q) (by simp)
  rw [State.retxTimeout, if_pos h, State.stagger_eq_armAll, hout', hcfg', State.armSuccessor_eq_armAll, hout,
    hcfg, ← State.armAll_append]
  rfl

/-- Outstanding sequences are fewer than `W` apart, so each has a slot of its own (R24, R131). -/
theorem State.slot_inj_of_outstanding (h : s.senderWindow.Consistent) {a b : Nat} (ha : a ≤ s.cfg.maxSeq)
    (hb : b ≤ s.cfg.maxSeq) (hao : s.outstanding a = true) (hbo : s.outstanding b = true)
    (hslot : slot s.cfg a = slot s.cfg b) : a = b := by
  have hack : s.ackExpected ≤ s.cfg.maxSeq := h.ack_expected
  have hbound : s.bufferedCount ≤ s.cfg.w := h.bound
  rw [State.outstanding_iff h ha] at hao
  rw [State.outstanding_iff h hb] at hbo
  rw [← ahead_forward hack ha, ← ahead_forward hack hb] at hslot ⊢
  exact congrArg _ (slot_ahead_inj h.legal (hao.trans_le hbound) (hbo.trans_le hbound) hslot)

/-- The entries of the outstanding sequences are armed (R37). -/
theorem State.armedAt_of_outstanding (hl : s.cfg.legal = true) (h : s.TimerInv) {a : Nat} (ha : a ≤ s.cfg.maxSeq)
    (hout : s.outstanding a = true) : s.armedAt a = true :=
  (h (slot s.cfg a) (slot_lt hl a)).mpr ⟨a, ha, rfl, hout⟩

/-- Between steps an outstanding sequence is all a genuine expiry asks for (R37, R145). -/
theorem State.genuineRetx_of_outstanding (hl : s.cfg.legal = true) (h : s.TimerInv) (hq : q ≤ s.cfg.maxSeq)
    (hout : s.outstanding q = true) : s.genuineRetx q = true := by
  simp [State.genuineRetx, hq, hout, State.armedAt_of_outstanding hl h hq hout]

section Invariants

variable (hcons : s.senderWindow.Consistent) (hq : q ≤ s.cfg.maxSeq) (hout : s.outstanding q = true)

include hcons hq hout

theorem State.retxTimers_places :
    (retxTimers s.cfg s.outstanding q).map Prod.fst = outAhead s.cfg s.outstanding q (List.range s.cfg.r) := by
  have hr : 1 ≤ s.cfg.maxSeq := ((Config.legal_iff s.cfg).mp hcons.legal).1
  exact retxTimers_fst (Nat.succ_le_succ hr) hq hout

theorem State.outstanding_of_mem_retxTimers {x : Nat × Nat} (hx : x ∈ retxTimers s.cfg s.outstanding q) :
    x.1 ≤ s.cfg.maxSeq ∧ s.outstanding x.1 = true :=
  mem_outAhead (State.retxTimers_places hcons hq hout ▸ List.mem_map_of_mem hx)

/-- No two of the timers share a slot. -/
theorem State.retxTimers_slots_nodup : ((retxTimers s.cfg s.outstanding q).map fun x => slot s.cfg x.1).Nodup := by
  rw [show (fun x : Nat × Nat => slot s.cfg x.1) = slot s.cfg ∘ Prod.fst from rfl, ← List.map_map,
    State.retxTimers_places hcons hq hout]
  refine outAhead_range_nodup.map_on fun a ha b hb hslot => ?_
  obtain ⟨har, hao⟩ := mem_outAhead ha
  obtain ⟨hbr, hbo⟩ := mem_outAhead hb
  exact State.slot_inj_of_outstanding hcons har hbr hao hbo hslot

/-- The whole state after a genuine expiry but for the delays: the armed set is as before, since the timers
re-armed were armed, that of `q` until it expired (R190, R144). -/
theorem State.retxTimeout_eq (htimers : s.TimerInv) : s.retxTimeout q =
    { s with
      chanReady := false,
      ackArmed := false,
      rtDelay := (s.retxTimeout q).rtDelay,
      actions := s.actions ++ .tx (encodeFrame s.cfg (s.frameOf .data q)) ::
        ((if s.ackArmed then [.cancelAck] else []) ++
          (retxTimers s.cfg s.outstanding q).map fun x => .armRt x.1 x.2) } := by
  have hl : s.cfg.legal = true := hcons.legal
  have hself : s.armedAt q = true := State.armedAt_of_outstanding hl htimers hq hout
  have harmed (x) (hx : x ∈ retxTimers s.cfg s.outstanding q) : s.armedAt x.1 = true := by
    obtain ⟨hr, ho⟩ := State.outstanding_of_mem_retxTimers hcons hq hout hx
    exact State.armedAt_of_outstanding hl htimers hr ho
  have hset : (State.armAll (retxTimers s.cfg s.outstanding q) ((s.disarmRt q).transmit .data q)).rtArmed =
      s.rtArmed := by
    refine State.armAll_rtArmed (u := (s.disarmRt q).resend q) (by simp) ?_
      (List.forall_mem_cons.mp harmed).2
    rw [State.resend_rtArmed, State.disarmRt_rtArmed, State.disarmRt_cfg, List.set_set,
      State.set_rtArmed_of_armedAt hself]
  have hframe := State.armAll_frame (retxTimers s.cfg s.outstanding q) ((s.disarmRt q).transmit .data q)
  rw [hset, ← State.retxTimeout_of_genuine (State.genuineRetx_of_outstanding hl htimers hq hout)] at hframe
  refine hframe.trans ?_
  generalize s.retxTimeout q = t
  rw [State.transmit_eq, List.append_assoc, List.cons_append]
  rfl

/-- Each timer a genuine expiry re-arms has its own delay afterwards (R190). -/
theorem State.retxTimeout_delayAt (hs : s.Shaped) (htimers : s.TimerInv) {a d : Nat}
    (hmem : (a, d) ∈ retxTimers s.cfg s.outstanding q) : (s.retxTimeout q).delayAt a = d := by
  have hl : s.cfg.legal = true := hcons.legal
  have hslots := State.retxTimers_slots_nodup hcons hq hout
  rw [State.retxTimeout_of_genuine (State.genuineRetx_of_outstanding hl htimers hq hout)]
  exact State.armAll_delayAt (by simpa using hl) (by simpa using hs.delay_length) (by simpa using hslots) hmem

/-- A genuine expiry leaves the delays of the unarmed entries alone (R190). -/
theorem State.retxTimeout_rtDelay_of_unarmed (hs : s.Shaped) (htimers : s.TimerInv) {i : Nat}
    (hi : s.rtArmed.getD i false = false) : (s.retxTimeout q).rtDelay.getD i 0 = s.rtDelay.getD i 0 := by
  have hl : s.cfg.legal = true := hcons.legal
  rw [State.retxTimeout_of_genuine (State.genuineRetx_of_outstanding hl htimers hq hout)]
  refine (State.armAll_rtDelay_getD (by simpa using hl) (by simpa using hs.delay_length) ?_).trans (by simp)
  rintro x hx rfl
  obtain ⟨hr, ho⟩ := State.outstanding_of_mem_retxTimers hcons hq hout hx
  rw [State.transmit_cfg, State.disarmRt_cfg] at hi
  exact Bool.eq_false_iff.mp hi (State.armedAt_of_outstanding hl htimers hr ho)

end Invariants

end Expiry

/-! ### The statement -/

/-- Settles O35: a genuine expiry re-arms one timer for each outstanding sequence, each in a slot of its own. -/
theorem retxTimeoutResendsAndStaggers : Obligations.RetxTimeoutResendsAndStaggers := by
  intro s q hl hs hring hsender htimers hq hout n others
  obtain ⟨hcons, -⟩ := (State.ringRegs_and_senderInv_iff hl).mp ⟨hring, hsender⟩
  refine ⟨s.retxTimeout q.toNat, rfl, ?whole, ?self, fun h => ?successor, fun k u h => ?other,
    fun i _ h => ?unarmed⟩
  case whole =>
    have heq := State.retxTimeout_eq hcons hq hout htimers
    rwa [retxTimers_actions] at heq
  case self => exact State.retxTimeout_delayAt hcons hq hout hs htimers mem_retxTimers_self
  case successor => exact State.retxTimeout_delayAt hcons hq hout hs htimers (mem_retxTimers_successor h)
  case other => exact State.retxTimeout_delayAt hcons hq hout hs htimers (mem_retxTimers_other h)
  case unarmed => exact State.retxTimeout_rtDelay_of_unarmed hcons hq hout hs htimers h

end Sys2Proof.Machine

/-! PROOF. The checksum's zero-residue law and the round trip of the codec (R86, R112, R113, R115): the four trailer
bytes shift a check value out of the CRC register, the closure has enough fuel, and the statements that follow:
ChecksumHasZeroResidue, DecodeEncodeAgree, SpecWordsDecode. -/

namespace Sys2Proof

/-! ### CRC-32/JAMCRC -/

/-- While the low bits are 0 a shift of the CRC register only shifts (R113). -/
theorem crcShifts_of_low_zero (n : Nat) (c : CheckValue) (h : ∀ i < n, c.getLsbD i = false) :
    crcShifts n c = c >>> n := by
  induction n generalizing c with
  | zero => simp [crcShifts]
  | succ n ih =>
    have hshift : crcShift c = c >>> 1 := by
      simp only [crcShift, h 0 (Nat.succ_pos n)]
      simp
    have hlow : ∀ i < n, (c >>> 1).getLsbD i = false := fun i hi => by
      rw [BitVec.getLsbD_ushiftRight]
      exact h (1 + i) (by omega)
    rw [crcShifts, hshift, ih _ hlow, ← BitVec.shiftRight_add, Nat.add_comm]

/-- Feeding the register its own low byte shifts that byte out (R113). -/
theorem crcByte_low_byte (c : CheckValue) : crcByte c (c.extractLsb' 0 8) = c >>> 8 := by
  have hbit (i : Nat) : (c ^^^ (c.extractLsb' 0 8).zeroExtend 32).getLsbD i =
      (decide (8 ≤ i) && c.getLsbD i) := by
    by_cases hi : i < 8
    · simp [hi, show i < 32 by omega, show ¬ 8 ≤ i by omega]
    · simp [Nat.le_of_not_lt hi]
  have hlow : ∀ i < 8, (c ^^^ (c.extractLsb' 0 8).zeroExtend 32).getLsbD i = false := fun i hi => by
    rw [hbit, decide_eq_false (by omega), Bool.false_and]
  rw [crcByte, crcShifts_of_low_zero 8 _ hlow]
  apply BitVec.eq_of_getLsbD_eq
  intro i _
  rw [BitVec.getLsbD_ushiftRight, BitVec.getLsbD_ushiftRight, hbit, decide_eq_true (Nat.le_add_right 8 i),
    Bool.true_and]

/-- Byte `j` of the trailer is the low byte of the register after `j` trailer bytes (R86). -/
theorem extract_eq_low_byte_shiftRight (v : CheckValue) (k : Nat) :
    v.extractLsb' k 8 = (v >>> k).extractLsb' 0 8 := by
  apply BitVec.eq_of_getLsbD_eq
  intro i hi
  simp [hi]

theorem crc32Jam_append_trailer (h : Bytes) : crc32Jam (h ++ trailerBytes (crc32Jam h)) = 0#32 := by
  generalize hv : crc32Jam h = v
  have hfold : crc32Jam (h ++ trailerBytes v) = (trailerBytes v).foldl crcByte v := by
    rw [crc32Jam, List.foldl_append]
    exact congrArg (fun c => (trailerBytes v).foldl crcByte c) hv
  calc crc32Jam (h ++ trailerBytes v)
      = v >>> 8 >>> 8 >>> 8 >>> 8 := by
        rw [hfold, trailerBytes, extract_eq_low_byte_shiftRight v 8, extract_eq_low_byte_shiftRight v 16,
          extract_eq_low_byte_shiftRight v 24, BitVec.shiftRight_add v 8 8, BitVec.shiftRight_add v 16 8,
          BitVec.shiftRight_add v 8 8]
        simp only [List.foldl_cons, List.foldl_nil, crcByte_low_byte]
    _ = v >>> 32 := by simp only [← BitVec.shiftRight_add]
    _ = 0#32 := BitVec.ushiftRight_eq_zero (Nat.le_refl 32)

/-! ### The closure of a checksum -/

/-- Any fuel that covers the buffer's length gives the closure the same value (R112; log 4). -/
theorem closedCheck_fuel (g : Bytes → CheckValue) {n m : Nat} {b : Bytes} (hn : b.length ≤ n)
    (hm : b.length ≤ m) : closedCheck g n b = closedCheck g m b := by
  induction n generalizing m b with
  | zero =>
    have hb : ¬ 4 ≤ b.length := by omega
    cases m with
    | zero => rfl
    | succ m => simp [closedCheck, hb]
  | succ n ih =>
    by_cases hb : 4 ≤ b.length
    · obtain ⟨m, rfl⟩ := Nat.exists_eq_add_one.mpr (show 0 < m by omega)
      have htake : (b.take (b.length - 4)).length = b.length - 4 := by simp
      rw [closedCheck, closedCheck, ih (m := m) (by omega) (by omega)]
    · cases m with
      | zero => simp [closedCheck, hb]
      | succ m => simp [closedCheck, hb]

theorem closedCheck_append_trailer (g : Bytes → CheckValue) (h : Bytes) :
    closedCheck g (h ++ trailerBytes (closedCheck g h.length h)).length
      (h ++ trailerBytes (closedCheck g h.length h)) = 0#32 := by
  generalize hv : closedCheck g h.length h = v
  have hcut : (h ++ trailerBytes v).length - 4 = h.length := by simp
  have hfuel : closedCheck g (h.length + 3) h = v := (closedCheck_fuel g (by omega) (Nat.le_refl _)).trans hv
  rw [show (h ++ trailerBytes v).length = h.length + 3 + 1 by simp, closedCheck, hcut, List.take_left,
    List.drop_left, hfuel]
  exact if_pos ⟨by simp, rfl⟩

/-! ### A frame read back -/

section RoundTrip

variable {c : Config} {a q : Nat} {p : Bytes}

theorem Config.check_append_trailer (c : Config) (h : Bytes) : c.check (h ++ c.trailer h) = 0#32 := by
  unfold Config.trailer Config.check
  cases c.ck with
  | jamcrc => exact crc32Jam_append_trailer h
  | other k => exact closedCheck_append_trailer (Config.freeCheck k) h

theorem check_encodeFrame (c : Config) (f : Frame) : c.check (encodeFrame c f) = 0#32 :=
  c.check_append_trailer f.header

theorem Config.wireByte_toNat_of_ring (hl : c.legal = true) {n : Nat} (h : n ≤ c.maxSeq) :
    (wireByte n).toNat = n := by
  obtain ⟨-, hmax, -⟩ := (Config.legal_iff c).mp hl
  exact wireByte_toNat (h.trans hmax)

theorem decodeFrame_encodeFrame_data (hl : c.legal = true) (ha : a ≤ c.maxSeq) (hq : q ≤ c.maxSeq)
    (hp : p.length = c.fixedLen) : decodeFrame c (encodeFrame c (.data a q p)) = .data a q p := by
  have hab : (byteOf (encodeFrame c (.data a q p)) 1).toNat = a := Config.wireByte_toNat_of_ring hl ha
  have hqb : (byteOf (encodeFrame c (.data a q p)) 2).toNat = q := Config.wireByte_toNat_of_ring hl hq
  have hfits : c.DataFits (encodeFrame c (.data a q p)) :=
    ⟨rfl, by rw [encodeFrame_data_length, hp], hab.trans_le ha, hqb.trans_le hq⟩
  have hpayload : ((encodeFrame c (.data a q p)).drop 3).take c.fixedLen = p := hp ▸ List.take_left
  rw [decodeFrame_of_dataFits (check_encodeFrame c _) hfits, hab, hqb, hpayload]

theorem decodeFrame_encodeFrame_ack (hl : c.legal = true) (ha : a ≤ c.maxSeq) :
    decodeFrame c (encodeFrame c (.ack a)) = .ack a := by
  have hab : (byteOf (encodeFrame c (.ack a)) 1).toNat = a := Config.wireByte_toNat_of_ring hl ha
  rw [decodeFrame_of_ackFits (check_encodeFrame c _) ⟨rfl, rfl, hab.trans_le ha⟩, hab]

theorem decodeFrame_encodeFrame_nak (hl : c.legal = true) (ha : a ≤ c.maxSeq) :
    decodeFrame c (encodeFrame c (.nak a)) = .nak a := by
  have hab : (byteOf (encodeFrame c (.nak a)) 1).toNat = a := Config.wireByte_toNat_of_ring hl ha
  rw [decodeFrame_of_nakFits (check_encodeFrame c _) ⟨rfl, rfl, hab.trans_le ha⟩, hab]

end RoundTrip

/-! ### The statements -/

/-- Settles O2: the CRC register shifts its own value out, and the closure gives such a buffer 0 by its first
test. -/
theorem checksumHasZeroResidue : Obligations.ChecksumHasZeroResidue := by
  intro k h
  cases k with
  | jamcrc => exact crc32Jam_append_trailer h
  | other k => exact closedCheck_append_trailer (Config.freeCheck k) h

/-- Settles O1: a frame passes DECODE's checksum test by the zero-residue law and the others by its operands'
ranges; a descriptor is read by its code. -/
theorem decodeEncodeAgree : Obligations.DecodeEncodeAgree := by
  intro c i w hl hwf h
  cases i with
  | data a q p =>
    obtain ⟨⟨ha, hq⟩, hp⟩ : (a ≤ c.maxSeq ∧ q ≤ c.maxSeq) ∧ p.length = c.fixedLen := by
      simpa [Instr.wellFormed, Config.ring, Config.packet] using hwf
    cases h
    simp [decode, decodeWire, decodeFrame_encodeFrame_data hl ha hq hp]
  | ack a =>
    have ha : a ≤ c.maxSeq := by simpa [Instr.wellFormed, Config.ring] using hwf
    cases h
    simp [decode, decodeWire, decodeFrame_encodeFrame_ack hl ha]
  | nak a =>
    have ha : a ≤ c.maxSeq := by simpa [Instr.wellFormed, Config.ring] using hwf
    cases h
    simp [decode, decodeWire, decodeFrame_encodeFrame_nak hl ha]
  | frameReceived b =>
    cases h
    exact if_pos hwf
  | upperReady _ | channelReady | retxTimeout _ | ackTimeout | reservedEvent0 | reservedEvent6
  | reservedEvent7 | reset =>
    cases h
    rfl
  | _ => cases h

/-- Settles O5: each word's check value and its kind's fit are computed; the descriptors decode by their code. -/
theorem specWordsDecode : Obligations.SpecWordsDecode := by
  unfold Obligations.SpecWordsDecode
  intro c
  have hack : decodeFrame c [0x02#8, 0x05#8, 0x0D#8, 0x7B#8, 0x7A#8, 0xFC#8] = .ack 5 :=
    decodeFrame_of_ackFits (c := c) (show crc32Jam _ = 0#32 by decide +kernel) ⟨rfl, rfl, by decide⟩
  have hnak : decodeFrame c [0x03#8, 0x07#8, 0x60#8, 0x2B#8, 0x6F#8, 0x0B#8] = .nak 7 :=
    decodeFrame_of_nakFits (c := c) (show crc32Jam _ = 0#32 by decide +kernel) ⟨rfl, rfl, by decide⟩
  have hdata : decodeFrame c [0x01#8, 0x07#8, 0x00#8, 0x50#8, 0x4B#8, 0x54#8, 0x00#8, 0x5E#8, 0xEE#8, 0xF4#8,
      0xB0#8] = .data 7 0 [0x50#8, 0x4B#8, 0x54#8, 0x00#8] :=
    decodeFrame_of_dataFits (c := c) (show crc32Jam _ = 0#32 by decide +kernel) ⟨rfl, rfl, by decide, by decide⟩
  refine ⟨?_, ?_, ?_, rfl, rfl, rfl⟩
  · simp [decode, decodeWire, hack]
  · simp [decode, decodeWire, hnak]
  · simp [decode, decodeWire, hdata]

end Sys2Proof

/-! PROOF. The sequence ring as operations and as distances (R130 to R134), with CANCEL_ACK and the window tests of
ON_DATA (R143, R170), and the statements that follow: RingFunctionsReturn, BetweenIsForwardDistance,
ConsecutiveSlotsDistinct, CancelAckOnlyWhenArmed, OnDataIgnoresDuplicates. -/

namespace Sys2Proof.Machine

/-! ### The ring functions without remainders -/

section RingValues

variable {c : Config} {a q : Nat}

/-- The two halves of the ring have the same slots (R131). -/
theorem slot_eq (hl : c.legal = true) (hq : q ≤ c.maxSeq) : slot c q = if q < c.w then q else q - c.w := by
  have hw : 2 * c.w = c.maxSeq + 1 := Config.two_w hl
  unfold slot
  split_ifs with h
  · exact Nat.mod_eq_of_lt h
  · rw [Nat.mod_eq_sub_mod (Nat.le_of_not_lt h), Nat.mod_eq_of_lt (by omega)]

/-- The acknowledgment value is the predecessor of `expected` (R134). -/
theorem State.ackval_eq {s : State} (h : s.expected ≤ s.cfg.maxSeq) :
    s.ackval = if s.expected = 0 then s.cfg.maxSeq else s.expected - 1 := by
  have hr : s.cfg.r = s.cfg.maxSeq + 1 := rfl
  unfold State.ackval
  split_ifs with h0
  · rw [h0, Nat.zero_add, Nat.mod_eq_of_lt (by omega)]
  · rw [show s.expected + s.cfg.maxSeq = s.expected - 1 + s.cfg.r by omega, Nat.add_mod_right,
      Nat.mod_eq_of_lt (by omega)]

theorem inc_eq_of_lt_or_wrap (hq : q ≤ c.maxSeq) : inc c q = if q < c.maxSeq then q + 1 else 0 := by
  rw [inc_eq hq]
  split_ifs <;> omega

end RingValues

/-! ### CANCEL_ACK and the tests of ON_DATA -/

section Tests

variable {s : State} {q : Nat}

theorem State.cancelAck_of_armed (h : s.ackArmed = true) :
    s.cancelAck = { s with ackArmed := false, actions := s.actions ++ [.cancelAck] } := by
  rw [State.cancelAck_frame, State.cancelAck_actions, if_pos h]

theorem State.cancelAck_of_not_armed (h : s.ackArmed = false) : s.cancelAck = s := by
  rw [State.cancelAck_frame, State.cancelAck_actions, h]
  cases s
  cases h
  rfl

theorem State.onData_outside (p : Bytes) (h : s.inWindow q = false) :
    s.onData q p = { state := s, out := [], cls := .dataOow } := if_neg (Bool.eq_false_iff.mp h)

theorem State.onData_arrived (p : Bytes) (hw : s.inWindow q = true) (ha : s.arrivedAt q = true) :
    s.onData q p = { state := s, out := [], cls := .dataDup } := (if_pos hw).trans (if_pos ha)

/-- A new sequence of the window is stored, and then the contiguous run drained (R170). -/
theorem State.onData_new (p : Bytes) (hw : s.inWindow q = true) (ha : s.arrivedAt q = false) :
    s.onData q p =
      { state := (State.drain s.cfg.w (s.store q p)).1, out := (State.drain s.cfg.w (s.store q p)).2,
        cls := .dataAccepted } :=
  (if_pos hw).trans (if_neg (Bool.eq_false_iff.mp ha))

theorem exec_onData {p : Bytes} {o : OnData} (h : s.onData q p = o) :
    exec (.onData q p) s = .next { o.state with result := .delivered o.out o.cls } := by
  subst h
  rfl

end Tests

/-! ### The statements -/

/-- Settles O6: each value is the remainder of a sum or number below twice the modulus. -/
theorem ringFunctionsReturn : Obligations.RingFunctionsReturn := by
  intro s q hl hq he
  refine ⟨?inc, ?slot, ?ackval⟩
  case inc => rw [← inc_eq_of_lt_or_wrap hq]; rfl
  case slot => rw [← slot_eq hl hq]; rfl
  case ackval => rw [← State.ackval_eq he]; rfl

/-- Settles O8: the law is the one the windows rest on. -/
theorem betweenIsForwardDistance : Obligations.BetweenIsForwardDistance :=
  fun _ _ _ _ ha hb hd => between_iff_forward_lt ha hb hd

/-- Settles O9: the slot of the place `k` ahead is `(a + k) mod W`, since `W` divides `R`. -/
theorem consecutiveSlotsDistinct : Obligations.ConsecutiveSlotsDistinct := by
  intro c a hl _
  refine ⟨fun k hk l hk' h => slot_ahead_inj hl hk hk' h, ?_⟩
  rw [slot_ahead hl, Nat.add_mod_right, slot]

/-- Settles O13: the armed bit decides the action, and clearing a clear bit changes nothing. -/
theorem cancelAckOnlyWhenArmed : Obligations.CancelAckOnlyWhenArmed :=
  fun _ => ⟨fun h => congrArg Host.Outcome.next (State.cancelAck_of_armed h),
    fun h => congrArg Host.Outcome.next (State.cancelAck_of_not_armed h)⟩

/-- Settles O20: the two tests of ON_DATA in their order. -/
theorem onDataIgnoresDuplicates : Obligations.OnDataIgnoresDuplicates :=
  fun _ _ p => ⟨fun h => exec_onData (State.onData_outside p h),
    fun hw ha => exec_onData (State.onData_arrived p hw ha)⟩

end Sys2Proof.Machine

/-! PROOF. What a step answers, input by input (R8, R10, R201): refusals, the waiting step and the step on an event
or RESET, with the statements that follow: StepNeverStops, IllegalInputsRefused, StepRunsDecodedInput. -/

namespace Sys2Proof.Machine

section StepAnswers

variable {s : State} {e : Event} {rest : List Input}

theorem Config.legal_eq_false_of {c : Config} (h : c.r ≠ 2 * c.w ∨ c.r % 2 = 1 ∨ c.r < 2 ∨ 256 < c.r ∨
    c.fixedLen = 0 ∨ c.rxMax < c.fixedLen + 7) : c.legal = false := by
  have hr : c.r = c.maxSeq + 1 := rfl
  rw [← Bool.not_eq_true, Config.legal_iff, Config.dataLen_eq]
  omega

theorem step_of_illegal (h : s.cfg.legal = false) : step s = .refused .illegalConfiguration := by
  simp [step, State.fetch, h]

theorem step_of_no_input (hl : s.cfg.legal = true) (hx : s.inputs = []) : step s = .next s.idle := by
  rw [step, State.fetch_idle hl hx]

theorem step_of_reset (hl : s.cfg.legal = true) (hx : s.inputs = .reset :: rest) :
    step s = .next (s.beginStep rest).applyReset.finishStep := by
  rw [step, State.fetch_operation hl hx rfl]
  rfl

/-- A received buffer decodes exactly if it can be presented (R90; log 16). -/
theorem decodeEvent_frameReceived {c : Config} (hc : e.code = 3#3) : decodeEvent c e =
    if c.buffer e.data then .ok (.frameReceived e.data) else .error .oversizeBuffer := by
  rw [decodeEvent, hc]
  rfl

theorem decodeEvent_of_presentable {c : Config} (h : e.code = 3#3 → e.data.length ≤ c.rxMax) :
    ∃ i, decodeEvent c e = .ok i := by
  by_cases hc : e.code = 3#3
  · exact ⟨_, (decodeEvent_frameReceived hc).trans (if_pos (decide_eq_true (h hc)))⟩
  · exact decodeEvent_of_code_ne hc

theorem step_of_oversize (hl : s.cfg.legal = true) (hx : s.inputs = .event e :: rest) (hc : e.code = 3#3)
    (hlen : s.cfg.rxMax < e.data.length) : step s = .refused .unpresentableDescriptor := by
  have hbuf : ¬ s.cfg.buffer e.data = true := fun h => Nat.not_le.mpr hlen (of_decide_eq_true h)
  have hd : decodeInput s.cfg (.event e) = .error .oversizeBuffer :=
    (decodeEvent_frameReceived hc).trans (if_neg hbuf)
  simp [step, State.fetch, hl, hx, hd]

end StepAnswers

/-! ### The statements -/

/-- Settles O40: the block waits, resets, or handles an event that decodes. -/
theorem stepNeverStops : Obligations.StepNeverStops := by
  intro s hl hpres
  rcases hx : s.inputs with _ | ⟨_ | _, rest⟩
  case nil => exact ⟨_, step_of_no_input hl hx⟩
  case cons.event e =>
    obtain ⟨i, hd⟩ := decodeEvent_of_presentable (hpres e rest hx)
    exact ⟨_, step_of_event hl hx hd⟩
  case cons.reset => exact ⟨_, step_of_reset hl hx⟩

/-- Settles O41: the configuration is tested first, the descriptor's length by the decoder. -/
theorem illegalInputsRefused : Obligations.IllegalInputsRefused :=
  fun _ => ⟨fun h => step_of_illegal (Config.legal_eq_false_of h),
    fun _ _ hl hx hc hlen => step_of_oversize hl hx hc hlen⟩

/-- Settles O39: the decoded input is RESET or an event, either of which answers a next state. -/
theorem stepRunsDecodedInput : Obligations.StepRunsDecodedInput := by
  intro s hl
  refine ⟨fun x rest i hx hd => ?_, fun hx => step_of_no_input hl hx⟩
  cases x with
  | event e => exact ⟨_, handle_eq_exec (s := s.beginStep rest) hd, step_of_event hl hx hd⟩
  | reset =>
    cases hd
    exact ⟨_, rfl, step_of_reset hl hx⟩

end Sys2Proof.Machine

/-! PROOF. Cumulative acknowledgment (R160): where ACK_THROUGH leaves the lower edge for any ring registers, and the
statement that follows: AckThroughIsCumulative. -/

namespace Sys2Proof.Machine

section Cumulative

variable {c : Config} {a b u : Nat}

/-- Distances from just past `a`, in distances from `b`: a place up to `a` is nearly a turn ahead. -/
theorem forward_inc_eq (ha : a ≤ c.maxSeq) (hb : b ≤ c.maxSeq) (hu : u ≤ c.maxSeq) :
    forward c (inc c a) u = if forward c b u ≤ forward c b a then forward c b u + c.maxSeq - forward c b a
      else forward c b u - forward c b a - 1 := by
  have hr : c.r = c.maxSeq + 1 := rfl
  rw [forward_eq (inc_le a) hu, forward_eq hb hu, forward_eq hb ha, inc_eq ha]
  split_ifs <;> omega

variable {s : State}

/-- Ring registers make "outstanding" a comparison of distances (R15, R133). -/
theorem State.outstanding_iff_forward (hs : s.RingRegs) (ha : a ≤ s.cfg.maxSeq) :
    s.outstanding a = true ↔ forward s.cfg s.ackExpected a < forward s.cfg s.ackExpected s.nextToSend :=
  between_iff_forward_lt hs.ack_expected ha hs.next_to_send

theorem State.retire_ringRegs (hs : s.RingRegs) : s.retire.RingRegs where
  ack_expected := by simpa using inc_le s.ackExpected
  next_to_send := by simpa using hs.next_to_send
  expected := by simpa using hs.expected
  too_far := by simpa using hs.too_far

/-- A window that starts just past `a` does not hold `a`. -/
theorem State.not_outstanding_of_past (hs : s.RingRegs) (ha : a ≤ s.cfg.maxSeq)
    (h : s.ackExpected = inc s.cfg a) : s.outstanding a = false := by
  have hfar : forward s.cfg s.ackExpected a = s.cfg.maxSeq := by
    rw [h, forward_inc_eq ha ha ha, if_pos (Nat.le_refl _), Nat.add_sub_cancel_left]
  have hnext : forward s.cfg s.ackExpected s.nextToSend < s.cfg.r := Nat.mod_lt _ Config.r_pos
  rw [← Bool.not_eq_true, State.outstanding_iff_forward hs ha, hfar]
  exact Nat.not_lt.mpr (Nat.le_of_lt_succ hnext)

/-- The loop of ACK_THROUGH stops just past `a` (R160). -/
theorem State.retireWhile_ackExpected (hs : s.RingRegs) (ha : a ≤ s.cfg.maxSeq)
    (hout : s.outstanding a = true) {fuel : Nat} (hfuel : forward s.cfg s.ackExpected a < fuel) :
    (State.retireWhile fuel a s).ackExpected = inc s.cfg a := by
  induction fuel generalizing s with
  | zero => exact absurd hfuel (Nat.not_lt_zero _)
  | succ fuel ih =>
    have hs' := State.retire_ringRegs hs
    have ha' : a ≤ s.retire.cfg.maxSeq := by simpa using ha
    rw [State.retireWhile_inside fuel hout]
    by_cases he : s.ackExpected = a
    · have hpast : s.retire.ackExpected = inc s.retire.cfg a := by simp [he]
      rw [State.retireWhile_outside fuel (State.not_outstanding_of_past hs' ha' hpast), hpast,
        State.retire_cfg]
    · have hnear : forward s.cfg (inc s.cfg s.ackExpected) a = forward s.cfg s.ackExpected a - 1 :=
        forward_inc_left hs.ack_expected ha he
      have hpos : forward s.cfg s.ackExpected a ≠ 0 := fun h0 => he <| by
        simpa [h0, ahead_zero hs.ack_expected] using ahead_forward hs.ack_expected ha
      have hedge : forward s.cfg (inc s.cfg s.ackExpected) s.nextToSend =
          forward s.cfg s.ackExpected s.nextToSend - 1 :=
        forward_inc_left hs.ack_expected hs.next_to_send (s.edges_ne_of_outstanding hout)
      rw [State.outstanding_iff_forward hs ha] at hout
      have hout' : s.retire.outstanding a = true := by
        rw [State.outstanding_iff_forward hs' ha', State.retire_cfg, State.retire_ackExpected,
          State.retire_nextToSend]
        omega
      have hfuel' : forward s.retire.cfg s.retire.ackExpected a < fuel := by
        rw [State.retire_cfg, State.retire_ackExpected]
        omega
      rw [ih hs' ha' hout' hfuel', State.retire_cfg]

theorem State.ackThrough_ackExpected (hs : s.RingRegs) (ha : a ≤ s.cfg.maxSeq)
    (hout : s.outstanding a = true) : (s.ackThrough a).ackExpected = inc s.cfg a :=
  State.retireWhile_ackExpected hs ha hout (Nat.mod_lt _ Config.r_pos)

/-- What an acknowledgment of an outstanding `a` leaves outstanding: the sequences past `a` (R160). -/
theorem State.ackThrough_outstanding_iff (hs : s.RingRegs) (ha : a ≤ s.cfg.maxSeq)
    (hout : s.outstanding a = true) (hu : u ≤ s.cfg.maxSeq) : (s.ackThrough a).outstanding u = true ↔
      s.outstanding u = true ∧ forward s.cfg s.ackExpected a < forward s.cfg s.ackExpected u := by
  have hnext : forward s.cfg s.ackExpected s.nextToSend < s.cfg.r := Nat.mod_lt _ Config.r_pos
  have hr : s.cfg.r = s.cfg.maxSeq + 1 := rfl
  have hpast : (s.ackThrough a).outstanding u = between (inc s.cfg a) u s.nextToSend := by
    rw [State.outstanding, State.ackThrough_ackExpected hs ha hout, State.ackThrough_nextToSend]
  rw [hpast, between_iff_forward_lt (inc_le a) hu hs.next_to_send, forward_inc_eq ha hs.ack_expected hu,
    forward_inc_eq ha hs.ack_expected hs.next_to_send, State.outstanding_iff_forward hs hu]
  rw [State.outstanding_iff_forward hs ha] at hout
  split_ifs <;> omega

end Cumulative

/-- Settles O18: inside the window the lower edge ends just past `a`; outside, nothing happens. -/
theorem ackThroughIsCumulative : Obligations.AckThroughIsCumulative := by
  intro s a _ hs ha
  refine ⟨s.ackThrough a, rfl, fun u hu => ?_⟩
  cases hout : s.outstanding a with
  | false => simp [s.ackThrough_outside hout]
  | true => simp [State.ackThrough_outstanding_iff hs ha hout hu]

end Sys2Proof.Machine

/-! PROOF. The drain of ON_DATA (R170): a number of advances over a contiguous run, what they do to the arrival bits,
and the two statements that follow: OnDataStoresOutOfOrder, OnDataDeliversRun. -/

namespace Sys2Proof.Machine

/-! ### The state after `n` advances -/

section Advances

variable {s : State}

/-- `n` advances move both edges by `n`; only the arrival bits follow. -/
theorem State.advance_iterate_frame (hs : s.RingRegs) (n : Nat) : State.advance^[n] s =
    { s with
      arrived := (State.advance^[n] s).arrived,
      expected := ahead s.cfg s.expected n,
      tooFar := ahead s.cfg s.tooFar n } := by
  induction n with
  | zero => rw [ahead_zero hs.expected, ahead_zero hs.too_far]; rfl
  | succ n ih =>
    rw [Function.iterate_succ_apply']
    generalize State.advance^[n] s = u at ih
    obtain ⟨ar, rfl⟩ : ∃ ar, u = { s with
        arrived := ar, expected := ahead s.cfg s.expected n, tooFar := ahead s.cfg s.tooFar n } := ⟨_, ih⟩
    rw [← inc_ahead, ← inc_ahead]
    rfl

theorem State.advance_iterate_cfg (n : Nat) : (State.advance^[n] s).cfg = s.cfg := by
  induction n with
  | zero => rfl
  | succ n ih => rw [Function.iterate_succ_apply', State.advance_cfg, ih]

theorem State.advance_iterate_expected (hs : s.RingRegs) (n : Nat) :
    (State.advance^[n] s).expected = ahead s.cfg s.expected n := by
  rw [State.advance_iterate_frame hs]

theorem State.advance_iterate_arrived_length (n : Nat) :
    (State.advance^[n] s).arrived.length = s.arrived.length := by
  induction n with
  | zero => rfl
  | succ n ih => rw [Function.iterate_succ_apply', State.advance_arrived, List.length_set, ih]

/-- After `n` advances the bits of the first `n` places from `expected` are clear, the others as before (R170). -/
theorem State.advance_iterate_arrived_getD (hl : s.cfg.legal = true) (hlen : s.arrived.length = s.cfg.w)
    (hs : s.RingRegs) (n i : Nat) :
    (State.advance^[n] s).arrived.getD i false = (s.arrived.getD i false &&
      !((List.range n).any fun k => decide (slot s.cfg (ahead s.cfg s.expected k) = i))) := by
  induction n with
  | zero => simp
  | succ n ih =>
    have hlen' : (State.advance^[n] s).arrived.length = s.cfg.w :=
      (State.advance_iterate_arrived_length n).trans hlen
    rw [Function.iterate_succ_apply', State.advance_arrived, State.advance_iterate_cfg,
      State.advance_iterate_expected hs, getD_set_slot hl hlen', ih, List.range_succ]
    split_ifs with hi
    · simp [hi]
    · simp [Ne.symm hi]

/-- Fewer than `W` advances leave the bit at the new `expected` alone: its slot is another (R131). -/
theorem State.advance_iterate_waits (hl : s.cfg.legal = true) (hlen : s.arrived.length = s.cfg.w)
    (hs : s.RingRegs) {n : Nat} (hn : n < s.cfg.w) :
    (State.advance^[n] s).arrivedAt (State.advance^[n] s).expected =
      s.arrivedAt (ahead s.cfg s.expected n) := by
  have hapart : ∀ k < n, slot s.cfg (ahead s.cfg s.expected k) ≠ slot s.cfg (ahead s.cfg s.expected n) :=
    fun k hk he => hk.ne (slot_ahead_inj hl (hk.trans hn) hn he)
  rw [State.arrivedAt, State.advance_iterate_cfg, State.advance_iterate_expected hs,
    State.advance_iterate_arrived_getD hl hlen hs, State.arrivedAt]
  simpa using fun _ => hapart

/-- `W` advances clear every bit, so nothing waits at the new `expected`. -/
theorem State.advance_iterate_w_waits (hl : s.cfg.legal = true) (hlen : s.arrived.length = s.cfg.w)
    (hs : s.RingRegs) :
    (State.advance^[s.cfg.w] s).arrivedAt (State.advance^[s.cfg.w] s).expected = false := by
  have hback : slot s.cfg (ahead s.cfg s.expected 0) = slot s.cfg (ahead s.cfg s.expected s.cfg.w) := by
    rw [slot_ahead hl, slot_ahead hl, Nat.add_mod_right, Nat.add_zero]
  rw [State.arrivedAt, State.advance_iterate_cfg, State.advance_iterate_expected hs,
    State.advance_iterate_arrived_getD hl hlen hs]
  have hcleared : ((List.range s.cfg.w).any fun k => decide (slot s.cfg (ahead s.cfg s.expected k) =
      slot s.cfg (ahead s.cfg s.expected s.cfg.w))) = true :=
    List.any_eq_true.mpr ⟨0, List.mem_range.mpr (Config.w_pos hl), decide_eq_true hback⟩
  rw [hcleared, Bool.not_true, Bool.and_false]

end Advances

/-! ### The drain loop -/

section Drain

variable {s : State}

/-- `n` rounds of the drain, none of which finds its bit clear, and at whose end the loop stops for one of its
two reasons: its bound is reached or nothing waits at `expected`. -/
structure State.Run (s : State) (fuel n : Nat) : Prop where
  bound : n ≤ fuel
  run   : ∀ k < n, (State.advance^[k] s).arrivedAt (State.advance^[k] s).expected = true
  stop  : n < fuel → (State.advance^[n] s).arrivedAt (State.advance^[n] s).expected = false

theorem State.exists_run (fuel : Nat) (s : State) : ∃ n, s.Run fuel n := by
  induction fuel generalizing s with
  | zero =>
    exact ⟨0, Nat.le_refl 0, fun k hk => absurd hk (Nat.not_lt_zero k), fun h => absurd h (Nat.lt_irrefl 0)⟩
  | succ fuel ih =>
    cases hs : s.arrivedAt s.expected with
    | false => exact ⟨0, Nat.zero_le _, fun k hk => absurd hk (Nat.not_lt_zero k), fun _ => hs⟩
    | true =>
      obtain ⟨n, hbound, hrun, hstop⟩ := ih s.advance
      refine ⟨n + 1, Nat.succ_le_succ hbound, fun k hk => ?_, fun h => hstop (Nat.lt_of_succ_lt_succ h)⟩
      cases k with
      | zero => exact hs
      | succ k => exact hrun k (Nat.lt_of_succ_lt_succ hk)

/-- The drain over a run is its advances, and hands out the slots it passes, in order (R170). -/
theorem State.Run.drain_eq {fuel n : Nat} (h : s.Run fuel n) : State.drain fuel s =
    (State.advance^[n] s, (List.range n).map fun k =>
      s.memRead .reassembly (slot s.cfg (State.advance^[k] s).expected)) := by
  induction fuel generalizing s n with
  | zero =>
    obtain rfl : n = 0 := Nat.le_zero.mp h.bound
    rfl
  | succ fuel ih =>
    cases n with
    | zero => exact s.drain_waiting _ (h.stop (Nat.succ_pos _))
    | succ n =>
      have hrest : s.advance.Run fuel n :=
        ⟨Nat.le_of_succ_le_succ h.bound, fun k hk => h.run (k + 1) (Nat.succ_lt_succ hk),
          fun hn => h.stop (Nat.succ_lt_succ hn)⟩
      have hfirst : s.arrivedAt s.expected = true := h.run 0 (Nat.succ_pos n)
      rw [State.drain, if_pos hfirst, ih hrest, List.range_succ_eq_map, List.map_cons, List.map_map]
      rfl

/-- A run from a state of the right shape leaves nothing waiting at `expected`: it stops there, or has cleared
all `W` bits (R28). -/
theorem State.Run.waiting {n : Nat} (h : s.Run s.cfg.w n) (hl : s.cfg.legal = true)
    (hlen : s.arrived.length = s.cfg.w) (hs : s.RingRegs) :
    (State.advance^[n] s).arrivedAt (State.advance^[n] s).expected = false := by
  rcases Nat.lt_or_eq_of_le h.bound with hn | rfl
  · exact h.stop hn
  · exact State.advance_iterate_w_waits hl hlen hs

end Drain

/-! ### A new sequence of the window -/

section NewSequence

variable {s : State} {q : Nat} {p : Bytes}

/-- A sequence of the receiver's window is fewer than `W` places ahead of `expected` (R26, R170). -/
theorem State.inWindow_iff (hl : s.cfg.legal = true) (hs : s.RingRegs) (hr : s.ReceiverInv)
    (hq : q ≤ s.cfg.maxSeq) : s.inWindow q = true ↔ forward s.cfg s.expected q < s.cfg.w := by
  have hw : 2 * s.cfg.w = s.cfg.maxSeq + 1 := Config.two_w hl
  have hpos := Config.w_pos hl
  have hspan : forward s.cfg s.expected s.tooFar = s.cfg.w := by
    have hahead : s.tooFar = ahead s.cfg s.expected s.cfg.w := hr.too_far
    have hle := hs.expected
    rw [forward_eq hs.expected hs.too_far, hahead, ahead, show s.cfg.r = s.cfg.maxSeq + 1 from rfl]
    rcases Nat.lt_or_ge (s.expected + s.cfg.w) (s.cfg.maxSeq + 1) with h | h
    · rw [Nat.mod_eq_of_lt h]
      split_ifs <;> omega
    · rw [Nat.mod_eq_sub_mod h, Nat.mod_eq_of_lt (by omega)]
      split_ifs <;> omega
  rw [State.inWindow, between_iff_forward_lt hs.expected hq hs.too_far, hspan]

/-- `expected` itself is in the window. -/
theorem State.inWindow_expected (hl : s.cfg.legal = true) (hs : s.RingRegs) (hr : s.ReceiverInv) :
    s.inWindow s.expected = true := by
  rw [State.inWindow_iff hl hs hr hs.expected, forward_eq hs.expected hs.expected]
  simpa using Config.w_pos hl

/-- Two sequences of the window in one slot are one sequence (R131, R170). -/
theorem State.slot_inj_of_inWindow (hl : s.cfg.legal = true) (hs : s.RingRegs) (hr : s.ReceiverInv)
    {a b : Nat} (ha : a ≤ s.cfg.maxSeq) (hb : b ≤ s.cfg.maxSeq) (haw : s.inWindow a = true)
    (hbw : s.inWindow b = true) (h : slot s.cfg a = slot s.cfg b) : a = b := by
  rw [State.inWindow_iff hl hs hr ha] at haw
  rw [State.inWindow_iff hl hs hr hb] at hbw
  rw [← ahead_forward hs.expected ha, ← ahead_forward hs.expected hb] at h ⊢
  exact congrArg _ (slot_ahead_inj hl haw hbw h)

theorem State.store_ringRegs (hs : s.RingRegs) (q : Nat) (p : Bytes) : (s.store q p).RingRegs :=
  ⟨hs.ack_expected, hs.next_to_send, hs.expected, hs.too_far⟩

theorem State.store_arrivedAt (hl : s.cfg.legal = true) (hlen : s.arrived.length = s.cfg.w) (q : Nat)
    (p : Bytes) (u : Nat) : (s.store q p).arrivedAt u = (s.arrivedAt u || decide (slot s.cfg u = slot s.cfg q)) := by
  rw [State.arrivedAt, State.store_arrived, State.store_cfg, getD_set_slot hl hlen, State.arrivedAt]
  split_ifs with h <;> simp [h]

theorem State.memRead_store (hp : p.length = s.cfg.fixedLen) :
    (s.store q p).memRead .reassembly (slot s.cfg q) = p :=
  s.memRead_memWrite .reassembly _ hp

theorem State.memRead_store_other (hp : p.length = s.cfg.fixedLen) {i : Nat} (hi : slot s.cfg q ≠ i) :
    (s.store q p).memRead .reassembly i = s.memRead .reassembly i :=
  s.memRead_memWrite_other .reassembly hi hp

theorem State.byteAt_store_outside (hp : p.length = s.cfg.fixedLen) {a : Nat}
    (ha : a < slot s.cfg q * s.cfg.fixedLen ∨ slot s.cfg q * s.cfg.fixedLen + s.cfg.fixedLen ≤ a) :
    (s.store q p).byteAt .reassembly a = s.byteAt .reassembly a :=
  s.byteAt_memWrite_outside .reassembly _ p (hp ▸ ha)

/-- Storing an out-of-order sequence leaves `expected` waiting, so the drain does nothing (R173). -/
theorem State.onData_outOfOrder (hl : s.cfg.legal = true) (hlen : s.arrived.length = s.cfg.w)
    (hs : s.RingRegs) (hr : s.ReceiverInv) (hq : q ≤ s.cfg.maxSeq) (hw : s.inWindow q = true)
    (ha : s.arrivedAt q = false) (hne : q ≠ s.expected) :
    s.onData q p = { state := s.store q p, out := [], cls := .dataAccepted } := by
  have hslot : slot s.cfg s.expected ≠ slot s.cfg q := fun h => hne
    (State.slot_inj_of_inWindow hl hs hr hs.expected hq (State.inWindow_expected hl hs hr) hw h).symm
  have hwait : (s.store q p).arrivedAt (s.store q p).expected = false := by
    rw [State.store_arrivedAt hl hlen, State.store_expected, hr.waiting, Bool.false_or]
    exact decide_eq_false hslot
  rw [State.onData_new p hw ha, (s.store q p).drain_waiting _ hwait]

end NewSequence

/-! ### The awaited sequence -/

section Awaited

variable {s : State} {p : Bytes} {n : Nat}

/-- Arrived places behind `expected` make a run once `expected` itself is stored. -/
theorem State.store_run (hl : s.cfg.legal = true) (hlen : s.arrived.length = s.cfg.w) (hs : s.RingRegs)
    (h1 : 1 ≤ n) (hn : n ≤ s.cfg.w)
    (hrun : ∀ k, 1 ≤ k → k < n → s.arrivedAt (ahead s.cfg s.expected k) = true)
    (hstop : n < s.cfg.w → s.arrivedAt (ahead s.cfg s.expected n) = false) :
    (s.store s.expected p).Run s.cfg.w n := by
  have hs' := State.store_ringRegs hs s.expected p
  have hlen' : (s.store s.expected p).arrived.length = s.cfg.w := by simpa using hlen
  have hbit {k : Nat} (hk : k < s.cfg.w) :
      (State.advance^[k] (s.store s.expected p)).arrivedAt (State.advance^[k] (s.store s.expected p)).expected =
        (s.arrivedAt (ahead s.cfg s.expected k) || decide (k = 0)) := by
    have hzero : slot s.cfg (ahead s.cfg s.expected k) = slot s.cfg s.expected ↔ k = 0 := by
      conv_lhs => rhs; rw [← ahead_zero hs.expected]
      exact ⟨fun h => slot_ahead_inj hl hk (Config.w_pos hl) h, fun h => by rw [h]⟩
    refine (State.advance_iterate_waits (s := s.store s.expected p) hl hlen' hs' hk).trans ?_
    rw [State.store_arrivedAt hl hlen]
    simp only [State.store_cfg, State.store_expected, hzero]
  refine ⟨hn, fun k hk => ?_, fun hn' => ?_⟩
  · rw [hbit (hk.trans_le hn)]
    rcases Nat.eq_zero_or_pos k with h0 | hpos
    · simp [h0]
    · simp [hrun k hpos hk]
  · rw [hbit hn', hstop hn', Bool.false_or]
    exact decide_eq_false (by omega)

/-- The drain's run after a store hands out the new payload, then the stored ones as they were (R170). -/
theorem State.Run.payloads (h : (s.store s.expected p).Run s.cfg.w n) (hl : s.cfg.legal = true)
    (hs : s.RingRegs) (hp : p.length = s.cfg.fixedLen) (h1 : 1 ≤ n) :
    (State.drain s.cfg.w (s.store s.expected p)).2 = p :: (List.range (n - 1)).map fun k =>
      s.memRead .reassembly (slot s.cfg (ahead s.cfg s.expected (k + 1))) := by
  obtain ⟨n, rfl⟩ := Nat.exists_eq_add_of_le' h1
  have hs' := State.store_ringRegs hs s.expected p
  rw [h.drain_eq, List.range_succ_eq_map, List.map_cons, List.map_map, Nat.add_sub_cancel]
  refine congrArg₂ List.cons (State.memRead_store hp) (List.map_congr_left fun k hk => ?_)
  have hk : k + 1 < s.cfg.w := (Nat.succ_lt_succ (List.mem_range.mp hk)).trans_le h.bound
  have hother : slot s.cfg s.expected ≠ slot s.cfg (ahead s.cfg s.expected (k + 1)) := by
    conv_lhs => rw [← ahead_zero hs.expected]
    exact fun he => absurd (slot_ahead_inj hl (Config.w_pos hl) hk he) (Nat.succ_ne_zero k).symm
  rw [Function.comp, State.advance_iterate_expected hs']
  exact State.memRead_store_other hp hother

end Awaited

/-! ### The statements -/

/-- Settles O21: the store reaches one slot and one arrival bit, and the drain finds nothing at `expected`. -/
theorem onDataStoresOutOfOrder : Obligations.OnDataStoresOutOfOrder := by
  intro s q p hl hshape hs hr hq hp hw ha hne
  have hon := State.onData_outOfOrder (p := p) hl hshape.arrived_length hs hr hq hw ha hne
  exact ⟨_, exec_onData hon, rfl, State.memRead_store hp, fun _ h => State.byteAt_store_outside hp h,
    fun a => State.byteAt_congr rfl rfl a⟩

/-- Settles O22: the bits behind `expected` make the drain's run `n` rounds long. -/
theorem onDataDeliversRun : Obligations.OnDataDeliversRun := by
  intro s p n hl hshape hs hr hp h1 hn hrun hstop
  have hs' := State.store_ringRegs hs s.expected p
  have hlen := hshape.arrived_length
  have hlen' : (s.store s.expected p).arrived.length = s.cfg.w := by simpa using hlen
  have hR := State.store_run (p := p) hl hlen hs h1 hn hrun hstop
  have hon : s.onData s.expected p = {
      state := State.advance^[n] (s.store s.expected p),
      out := p :: (List.range (n - 1)).map (fun k =>
        s.memRead .reassembly (slot s.cfg (ahead s.cfg s.expected (k + 1)))),
      cls := .dataAccepted } := by
    rw [State.onData_new p (State.inWindow_expected hl hs hr) hr.waiting, hR.payloads hl hs hp h1, hR.drain_eq]
  have hframe := State.advance_iterate_frame hs' n
  refine ⟨_, exec_onData hon, ?whole, fun i _ => ?bits, ?slot, fun a ha => ?cells, fun a => ?outbox⟩
  case whole => rw [hframe]; rfl
  case bits =>
    refine (State.advance_iterate_arrived_getD (s := s.store s.expected p) hl hlen' hs' n i).trans ?_
    rw [State.store_arrived, getD_set_slot hl hlen]
    split_ifs with hi
    · have hpassed : ((List.range n).any fun k => decide (slot s.cfg (ahead s.cfg s.expected k) = i)) = true :=
        List.any_eq_true.mpr ⟨0, List.mem_range.mpr h1, decide_eq_true (by rw [ahead_zero hs.expected, hi])⟩
      rw [State.store_cfg, State.store_expected, hpassed, Bool.not_true, Bool.and_false, Bool.and_false]
    · rfl
  case slot =>
    rw [hframe]
    exact (State.memRead_congr rfl rfl rfl _).trans (State.memRead_store hp)
  case cells =>
    rw [hframe]
    exact (State.byteAt_congr rfl rfl a).trans (State.byteAt_store_outside hp ha)
  case outbox =>
    rw [hframe]
    exact State.byteAt_congr rfl rfl a

end Sys2Proof.Machine

/-! PROOF. What a handler can do, said once (R180 to R201): the inversion of DECODE and of `handle`. -/

namespace Sys2Proof

/-- The five results of DECODE, with what each says of the buffer (R115). -/
theorem decodeFrame_cases (c : Config) (b : Bytes) :
    decodeFrame c b = .corruptFrame ∨ decodeFrame c b = .malformedFrame ∨
    (c.DataFits b ∧ decodeFrame c b = .data (byteOf b 1).toNat (byteOf b 2).toNat ((b.drop 3).take c.fixedLen)) ∨
    (c.ControlFits 0x02#8 b ∧ decodeFrame c b = .ack (byteOf b 1).toNat) ∨
    (c.ControlFits 0x03#8 b ∧ decodeFrame c b = .nak (byteOf b 1).toNat) := by
  by_cases hlen : b.length < 6
  · exact .inl (decodeFrame_of_short hlen)
  by_cases hck : c.check b = 0#32
  case neg => exact .inl (decodeFrame_of_check_ne hck)
  by_cases hd : c.DataFits b
  · exact .inr (.inr (.inl ⟨hd, decodeFrame_of_dataFits hck hd⟩))
  by_cases ha : c.ControlFits 0x02#8 b
  · exact .inr (.inr (.inr (.inl ⟨ha, decodeFrame_of_ackFits hck ha⟩)))
  by_cases hn : c.ControlFits 0x03#8 b
  · exact .inr (.inr (.inr (.inr ⟨hn, decodeFrame_of_nakFits hck hn⟩)))
  · exact .inr (.inl (decodeFrame_of_not_fits (Nat.le_of_not_lt hlen) hck hd ha hn))

section Fields

variable {c : Config} {b p : Bytes} {a q : Nat}

theorem decodeFrame_data_fields (h : decodeFrame c b = .data a q p) :
    a ≤ c.maxSeq ∧ q ≤ c.maxSeq ∧ p.length = c.fixedLen := by
  rcases decodeFrame_cases c b with h' | h' | ⟨⟨-, hlen, ha, hq⟩, h'⟩ | ⟨-, h'⟩ | ⟨-, h'⟩ <;> rw [h'] at h <;> cases h
  exact ⟨ha, hq, by rw [List.length_take, List.length_drop]; omega⟩

theorem decodeFrame_ack_field (h : decodeFrame c b = .ack a) : a ≤ c.maxSeq := by
  rcases decodeFrame_cases c b with h' | h' | ⟨-, h'⟩ | ⟨⟨-, -, ha⟩, h'⟩ | ⟨-, h'⟩ <;> rw [h'] at h <;> cases h
  exact ha

theorem decodeFrame_nak_field (h : decodeFrame c b = .nak a) : a ≤ c.maxSeq := by
  rcases decodeFrame_cases c b with h' | h' | ⟨-, h'⟩ | ⟨-, h'⟩ | ⟨⟨-, -, ha⟩, h'⟩ <;> rw [h'] at h <;> cases h
  exact ha

end Fields

namespace Machine

/-- What the handler of an event can do to a state, with the tests that lead there (R180 to R201). -/
inductive State.Handling (s : State) (e : Event) : State → Prop
  /-- the event is recorded in `ERR` and has no other effect (R92, R93, R180) -/
  | recorded (x : ErrBit) (h : s.AdmissionInv → s.honouredBy e = false) : Handling s e (s.raise x)
  | submitted (hc : e.code = 1#3) (hlen : e.data.length = s.cfg.fixedLen) (hadm : s.admissible = true) :
      Handling s e ((s.submit e.data).resend s.nextToSend)
  | channelReady (hc : e.code = 2#3) : Handling s e s.noteChannelReady
  | corruptNak (hc : e.code = 3#3) : Handling s e (s.classify .corrupt).sendNak
  | corruptDeferred (hc : e.code = 3#3) : Handling s e ((s.classify .corrupt).armAck s.cfg.tAck)
  | malformed (hc : e.code = 3#3) (hd : decodeFrame s.cfg e.data = .malformedFrame) :
      Handling s e ((s.classify .malformed).raise .malformed)
  | data {a q : Nat} {p : Bytes} (hc : e.code = 3#3) (hd : decodeFrame s.cfg e.data = .data a q p) :
      Handling s e (s.rxData a q p)
  | nak {a : Nat} (hc : e.code = 3#3) (hd : decodeFrame s.cfg e.data = .nak a) : Handling s e (s.rxNak a)
  | ack {a : Nat} (hc : e.code = 3#3) (hd : decodeFrame s.cfg e.data = .ack a) : Handling s e (s.rxAck a)
  | expired (hc : e.code = 4#3) (h : s.genuineRetx e.seq.toNat = true) : Handling s e (s.retxTimeout e.seq.toNat)
  | deferralOver (hc : e.code = 5#3) (h : s.ackArmed = true) : Handling s e s.disarmAck.sendAck

section Inversion

variable {s : State} {e : Event}

theorem State.honouredBy_of_reserved (h : e.code = 0#3 ∨ e.code = 6#3 ∨ e.code = 7#3) :
    s.honouredBy e = false := by
  rcases h with h | h | h <;> rw [State.honouredBy, h] <;> rfl

theorem State.honouredBy_upperReady (h : e.code = 1#3) :
    s.honouredBy e = (s.admEnable && decide (e.data.length = s.cfg.fixedLen)) := by
  rw [State.honouredBy, h]; rfl

theorem State.honouredBy_frameReceived (h : e.code = 3#3) :
    s.honouredBy e = decide (decodeFrame s.cfg e.data ≠ .malformedFrame) := by
  rw [State.honouredBy, h]; rfl

theorem State.honouredBy_retxTimeout (h : e.code = 4#3) : s.honouredBy e = s.genuineRetx e.seq.toNat := by
  rw [State.honouredBy, h]; rfl

theorem State.honouredBy_ackTimeout (h : e.code = 5#3) : s.honouredBy e = s.ackArmed := by
  rw [State.honouredBy, h]; rfl

theorem State.handling_reserved (h : e.code = 0#3 ∨ e.code = 6#3 ∨ e.code = 7#3) :
    s.Handling e (s.handle e) := by
  rw [State.handle_unsupported (h.imp_right (Or.imp_right Or.inl))]
  exact .recorded .evcode fun _ => State.honouredBy_of_reserved h

theorem State.handling_upperReady (hc : e.code = 1#3) : s.Handling e (s.upperReady e.data) := by
  by_cases hlen : e.data.length = s.cfg.fixedLen
  · cases hadm : s.admissible with
    | true =>
      rw [State.upperReady_of_admissible hlen hadm]
      exact .submitted hc hlen hadm
    | false =>
      rw [State.upperReady_of_not_admissible hlen hadm]
      refine .recorded .adm fun hgate => ?_
      rw [State.honouredBy_upperReady hc, show s.admEnable = false from hgate.trans hadm, Bool.false_and]
  · rw [State.upperReady_of_length_ne hlen]
    refine .recorded .evcode fun _ => ?_
    rw [State.honouredBy_upperReady hc, decide_eq_false hlen, Bool.and_false]

theorem State.handling_frameReceived (hc : e.code = 3#3) : s.Handling e (s.frameReceived e.data) := by
  cases hd : decodeFrame s.cfg e.data with
  | corruptFrame =>
    rw [State.frameReceived_of_corrupt hd]
    by_cases h : s.nakSuppressed = false ∨ s.claims (claimedSeq e.data) = true
    · exact State.rxCorrupt_of_nak h ▸ .corruptNak hc
    · exact State.rxCorrupt_of_defer h ▸ .corruptDeferred hc
  | malformedFrame => exact State.frameReceived_of_malformed hd ▸ .malformed hc hd
  | data a q p => exact State.frameReceived_of_data hd ▸ .data hc hd
  | nak a => exact State.frameReceived_of_nak hd ▸ .nak hc hd
  | ack a => exact State.frameReceived_of_ack hd ▸ .ack hc hd

theorem State.handling_retxTimeout (hc : e.code = 4#3) : s.Handling e (s.retxTimeout e.seq.toNat) := by
  cases h : s.genuineRetx e.seq.toNat with
  | true => exact .expired hc h
  | false =>
    rw [State.retxTimeout_of_not_genuine h]
    exact .recorded .spurious fun _ => (State.honouredBy_retxTimeout hc).trans h

theorem State.handling_ackTimeout (hc : e.code = 5#3) : s.Handling e s.ackTimeout := by
  cases h : s.ackArmed with
  | true => exact State.ackTimeout_of_armed h ▸ .deferralOver hc h
  | false =>
    rw [State.ackTimeout_of_not_armed h]
    exact .recorded .spurious fun _ => (State.honouredBy_ackTimeout hc).trans h

theorem State.handling (s : State) (e : Event) : s.Handling e (s.handle e) := by
  rcases event_codes e.code with hc | hc | hc | hc | hc | hc | hc | hc
  · exact State.handling_reserved (.inl hc)
  · exact State.handle_upperReady hc ▸ State.handling_upperReady hc
  · exact State.handle_channelReady hc ▸ .channelReady hc
  · exact State.handle_frameReceived hc ▸ State.handling_frameReceived hc
  · exact State.handle_retxTimeout hc ▸ State.handling_retxTimeout hc
  · exact State.handle_ackTimeout hc ▸ State.handling_ackTimeout hc
  · exact State.handling_reserved (.inr (.inl hc))
  · exact State.handling_reserved (.inr (.inr hc))

end Inversion

end Machine

end Sys2Proof

/-! PROOF. The two sides of the engine with their buffers (R20 to R29, R60): which operations touch which side, and
what an event can do to either. -/

namespace Sys2Proof.Machine

/-- The sender's window with the outbox, and what its free bytes hang on (R20 to R23; log 5). -/
structure SenderSide where
  window : SenderWindow
  outbox : Memory
  epoch  : Nat

/-- The receiver's window with its arrival bits and buffer, and what its free bytes hang on (R25 to R29; log 5). -/
structure ReceiverSide where
  window     : ReceiverWindow
  arrived    : List Bool
  reassembly : Memory
  epoch      : Nat

def State.senderSide (s : State) : SenderSide where
  window := s.senderWindow
  outbox := s.outbox
  epoch  := s.epoch

def State.receiverSide (s : State) : ReceiverSide where
  window     := s.receiverWindow
  arrived    := s.arrived
  reassembly := s.reassembly
  epoch      := s.epoch

/-- Neither side is touched. -/
structure State.SameSides (s t : State) : Prop where
  sender   : t.senderSide = s.senderSide
  receiver : t.receiverSide = s.receiverSide

/-! ### What a side determines -/

section Determined

variable {s t : State}

theorem State.cfg_eq_of_senderSide (h : t.senderSide = s.senderSide) : t.cfg = s.cfg :=
  congrArg (fun v => v.window.cfg) h

theorem State.outbox_eq_of_senderSide (h : t.senderSide = s.senderSide) : t.outbox = s.outbox :=
  congrArg SenderSide.outbox h

theorem State.outstanding_eq_of_senderSide (h : t.senderSide = s.senderSide) : t.outstanding = s.outstanding :=
  State.outstanding_congr (congrArg SenderSide.window h)

theorem State.memRead_outbox_of_senderSide (h : t.senderSide = s.senderSide) (i : Nat) :
    t.memRead .outbox i = s.memRead .outbox i :=
  State.memRead_congr (sp := .outbox) (State.outbox_eq_of_senderSide h) (congrArg SenderSide.epoch h)
    (congrArg (fun v : SenderSide => v.window.cfg.fixedLen) h) i

theorem State.cfg_eq_of_receiverSide (h : t.receiverSide = s.receiverSide) : t.cfg = s.cfg :=
  congrArg (fun v => v.window.cfg) h

theorem State.expected_eq_of_receiverSide (h : t.receiverSide = s.receiverSide) : t.expected = s.expected :=
  congrArg (fun v => v.window.expected) h

theorem State.arrived_eq_of_receiverSide (h : t.receiverSide = s.receiverSide) : t.arrived = s.arrived :=
  congrArg ReceiverSide.arrived h

theorem State.reassembly_eq_of_receiverSide (h : t.receiverSide = s.receiverSide) :
    t.reassembly = s.reassembly :=
  congrArg ReceiverSide.reassembly h

theorem State.arrivedAt_of_receiverSide (h : t.receiverSide = s.receiverSide) : t.arrivedAt = s.arrivedAt := by
  funext q
  exact congrArg (fun v : ReceiverSide => v.arrived.getD (slot v.window.cfg q) false) h

theorem State.inWindow_of_receiverSide (h : t.receiverSide = s.receiverSide) : t.inWindow = s.inWindow := by
  funext q
  exact congrArg (fun v : ReceiverSide => between v.window.expected q v.window.tooFar) h

theorem State.memRead_reassembly_of_receiverSide (h : t.receiverSide = s.receiverSide) (i : Nat) :
    t.memRead .reassembly i = s.memRead .reassembly i :=
  State.memRead_congr (sp := .reassembly) (State.reassembly_eq_of_receiverSide h) (congrArg ReceiverSide.epoch h)
    (congrArg (fun v : ReceiverSide => v.window.cfg.fixedLen) h) i

end Determined

/-! ### Operations that touch neither side -/

section Untouched

variable (s : State)

theorem State.SameSides.refl : s.SameSides s := ⟨rfl, rfl⟩

variable {s} in
theorem State.SameSides.trans {t u : State} (h : s.SameSides t) (h' : t.SameSides u) : s.SameSides u :=
  ⟨h'.sender.trans h.sender, h'.receiver.trans h.receiver⟩

theorem State.classify_sides (c : FrameClass) : s.SameSides (s.classify c) := ⟨rfl, rfl⟩

theorem State.raise_sides (b : ErrBit) : s.SameSides (s.raise b) := ⟨rfl, rfl⟩

theorem State.noteChannelReady_sides : s.SameSides s.noteChannelReady := ⟨rfl, rfl⟩

theorem State.armAck_sides (d : Nat) : s.SameSides (s.armAck d) := ⟨rfl, rfl⟩

theorem State.disarmAck_sides : s.SameSides s.disarmAck := ⟨rfl, rfl⟩

theorem State.disarmRt_sides (q : Nat) : s.SameSides (s.disarmRt q) := ⟨rfl, rfl⟩

theorem State.transmit_sides (k : FrameKind) (q : Nat) : s.SameSides (s.transmit k q) := by
  rw [State.transmit_eq]
  exact ⟨rfl, rfl⟩

theorem State.resend_sides (q : Nat) : s.SameSides (s.resend q) := by
  rw [State.resend_eq]
  exact ⟨rfl, rfl⟩

theorem State.armAll_sides (l : List (Nat × Nat)) : s.SameSides (State.armAll l s) := by
  rw [State.armAll_frame]
  exact ⟨rfl, rfl⟩

theorem State.nakOrDefer_sides (q : Nat) : s.SameSides (s.nakOrDefer q) := by
  rcases s.nakOrDefer_cases q with ⟨-, -, h⟩ | ⟨-, h⟩ <;> rw [h]
  · exact s.transmit_sides .nak 0
  · exact s.armAck_sides _

theorem State.deliveries_sides (out : List Bytes) : s.SameSides (out.foldl State.deliver s) := by
  rw [State.deliver_foldl]
  exact ⟨rfl, rfl⟩

theorem State.nakResend_sides (a : Nat) : s.SameSides (s.nakResend a) := by
  cases h : s.outstanding (inc s.cfg a) with
  | true => exact (s.nakResend_of_outstanding h).symm ▸ s.resend_sides _
  | false => exact (s.nakResend_of_not_outstanding h).symm ▸ .refl s

theorem State.retxTimeout_sides (q : Nat) : s.SameSides (s.retxTimeout q) := by
  cases h : s.genuineRetx q with
  | true =>
    rw [State.retxTimeout_of_genuine h]
    exact (s.disarmRt_sides q).trans ((State.transmit_sides _ _ _).trans (State.armAll_sides _ _))
  | false => exact State.retxTimeout_of_not_genuine h ▸ s.raise_sides _

/-! ### Operations that touch one side -/

theorem State.submit_receiverSide (p : Bytes) : (s.submit p).receiverSide = s.receiverSide := rfl

theorem State.ackThrough_receiverSide (a : Nat) : (s.ackThrough a).receiverSide = s.receiverSide := by
  obtain ⟨_, _, _, _, h⟩ := s.ackThrough_shape a
  rw [h]
  rfl

theorem State.onData_senderSide (q : Nat) (p : Bytes) : (s.onData q p).state.senderSide = s.senderSide := by
  obtain ⟨_, _, _, _, h⟩ := s.onData_shape q p
  rw [h]
  rfl

end Untouched

/-! ### ACK_THROUGH and ON_DATA look at their own side only -/

section OwnSide

variable {s t : State}

theorem State.retire_senderSide_congr (h : t.senderSide = s.senderSide) :
    t.retire.senderSide = s.retire.senderSide := by
  rw [State.retire_frame, State.retire_frame (s := s)]
  exact congrArg (fun v : SenderSide => { v with window := v.window.retire }) h

theorem State.retireWhile_senderSide_congr (h : t.senderSide = s.senderSide) (fuel a : Nat) :
    (State.retireWhile fuel a t).senderSide = (State.retireWhile fuel a s).senderSide := by
  induction fuel generalizing s t with
  | zero => exact h
  | succ fuel ih =>
    rw [State.retireWhile, State.retireWhile, State.outstanding_eq_of_senderSide h]
    split
    · exact ih (State.retire_senderSide_congr h)
    · exact h

theorem State.ackThrough_senderSide_congr (h : t.senderSide = s.senderSide) (a : Nat) :
    (t.ackThrough a).senderSide = (s.ackThrough a).senderSide := by
  rw [State.ackThrough, State.ackThrough, State.cfg_eq_of_senderSide h]
  exact State.retireWhile_senderSide_congr h _ a

/-- One round of the drain, on the receiver's side. -/
def ReceiverSide.advance (v : ReceiverSide) : ReceiverSide :=
  { v with
    window := v.window.advance
    arrived := v.arrived.set (slot v.window.cfg v.window.expected) false }

/-- The store step of ON_DATA, on the receiver's side. -/
def ReceiverSide.store (v : ReceiverSide) (q : Nat) (p : Bytes) : ReceiverSide :=
  { v with
    arrived := v.arrived.set (slot v.window.cfg q) true
    reassembly := Memory.writeBytes v.reassembly (slot v.window.cfg q * v.window.cfg.fixedLen) p }

theorem State.advance_receiverSide (s : State) : s.advance.receiverSide = s.receiverSide.advance := rfl

theorem State.store_receiverSide (s : State) (q : Nat) (p : Bytes) :
    (s.store q p).receiverSide = s.receiverSide.store q p := rfl

theorem State.drain_receiverSide_congr (h : t.receiverSide = s.receiverSide) (fuel : Nat) :
    (State.drain fuel t).1.receiverSide = (State.drain fuel s).1.receiverSide ∧
      (State.drain fuel t).2 = (State.drain fuel s).2 := by
  induction fuel generalizing s t with
  | zero => exact ⟨h, rfl⟩
  | succ fuel ih =>
    have hadvance : t.advance.receiverSide = s.advance.receiverSide := congrArg ReceiverSide.advance h
    obtain ⟨hside, hout⟩ := ih hadvance
    rw [State.drain, State.drain, State.arrivedAt_of_receiverSide h, State.expected_eq_of_receiverSide h,
      State.cfg_eq_of_receiverSide h, State.memRead_reassembly_of_receiverSide h]
    split
    · exact ⟨hside, congrArg (s.memRead .reassembly (slot s.cfg s.expected) :: ·) hout⟩
    · exact ⟨h, rfl⟩

/-- ON_DATA does to the receiver's side, returns and answers what that side alone decides (R170). -/
theorem State.onData_receiverSide_congr (h : t.receiverSide = s.receiverSide) (q : Nat) (p : Bytes) :
    (t.onData q p).state.receiverSide = (s.onData q p).state.receiverSide ∧
      (t.onData q p).out = (s.onData q p).out ∧ (t.onData q p).cls = (s.onData q p).cls := by
  have hstore : (t.store q p).receiverSide = (s.store q p).receiverSide := congrArg (ReceiverSide.store · q p) h
  obtain ⟨hside, hout⟩ := State.drain_receiverSide_congr hstore s.cfg.w
  unfold State.onData
  rw [State.inWindow_of_receiverSide h, State.arrivedAt_of_receiverSide h, State.cfg_eq_of_receiverSide h]
  split_ifs
  · exact ⟨h, rfl, rfl⟩
  · exact ⟨hside, hout, rfl⟩
  · exact ⟨h, rfl, rfl⟩

end OwnSide

/-! ### What an event does to either side -/

section Handlers

variable (s : State)

theorem State.rxData_senderSide (a q : Nat) (p : Bytes) :
    (s.rxData a q p).senderSide = (s.ackThrough a).senderSide := by
  apply State.ackThrough_senderSide_congr
  calc _ = ((s.nakOrDefer q).onData q p).state.senderSide :=
        ((State.classify_sides _ _).trans (State.deliveries_sides _ _)).sender
    _ = (s.nakOrDefer q).senderSide := State.onData_senderSide _ q p
    _ = s.senderSide := (s.nakOrDefer_sides q).sender

theorem State.rxData_receiverSide (a q : Nat) (p : Bytes) :
    (s.rxData a q p).receiverSide = (s.onData q p).state.receiverSide := by
  calc (s.rxData a q p).receiverSide
      = ((s.nakOrDefer q).onData q p).state.receiverSide :=
        (State.ackThrough_receiverSide _ a).trans
          ((State.classify_sides _ _).trans (State.deliveries_sides _ _)).receiver
    _ = (s.onData q p).state.receiverSide := (State.onData_receiverSide_congr (s.nakOrDefer_sides q).receiver q p).1

theorem State.rxNak_senderSide (a : Nat) : (s.rxNak a).senderSide = (s.ackThrough a).senderSide :=
  State.ackThrough_senderSide_congr ((s.classify_sides _).trans (State.nakResend_sides _ a)).sender a

theorem State.rxNak_receiverSide (a : Nat) : (s.rxNak a).receiverSide = s.receiverSide :=
  (State.ackThrough_receiverSide _ a).trans ((s.classify_sides _).trans (State.nakResend_sides _ a)).receiver

/-- What an event can do to the sender's side: an admitted submission, or an acknowledgment. -/
theorem State.handle_senderSide (e : Event) :
    (s.handle e).senderSide = s.senderSide ∨
    (e.code = 1#3 ∧ e.data.length = s.cfg.fixedLen ∧ s.admissible = true ∧
      (s.handle e).senderSide = (s.submit e.data).senderSide) ∨
    (∃ a ≤ s.cfg.maxSeq, (s.handle e).senderSide = (s.ackThrough a).senderSide) := by
  have h := s.handling e
  generalize s.handle e = t at h ⊢
  cases h with
  | recorded => exact .inl rfl
  | submitted hc hlen hadm => exact .inr (.inl ⟨hc, hlen, hadm, (State.resend_sides _ _).sender⟩)
  | channelReady => exact .inl rfl
  | corruptNak => exact .inl (State.transmit_sides _ _ _).sender
  | corruptDeferred => exact .inl rfl
  | malformed => exact .inl rfl
  | data _ hd => exact .inr (.inr ⟨_, (decodeFrame_data_fields hd).1, s.rxData_senderSide _ _ _⟩)
  | nak _ hd => exact .inr (.inr ⟨_, decodeFrame_nak_field hd, s.rxNak_senderSide _⟩)
  | ack _ hd =>
    exact .inr (.inr ⟨_, decodeFrame_ack_field hd, State.ackThrough_senderSide_congr (s.classify_sides _).sender _⟩)
  | expired => exact .inl (s.retxTimeout_sides _).sender
  | deferralOver => exact .inl (State.transmit_sides _ _ _).sender

/-- What an event can do to the receiver's side: ON_DATA of a frame received. -/
theorem State.handle_receiverSide (e : Event) :
    (s.handle e).receiverSide = s.receiverSide ∨
    (e.code = 3#3 ∧ ∃ q ≤ s.cfg.maxSeq, ∃ p : Bytes, p.length = s.cfg.fixedLen ∧
      (s.handle e).receiverSide = (s.onData q p).state.receiverSide) := by
  have h := s.handling e
  generalize s.handle e = t at h ⊢
  cases h with
  | recorded => exact .inl rfl
  | submitted => exact .inl (State.resend_sides _ _).receiver
  | channelReady => exact .inl rfl
  | corruptNak => exact .inl (State.transmit_sides _ _ _).receiver
  | corruptDeferred => exact .inl rfl
  | malformed => exact .inl rfl
  | data hc hd =>
    obtain ⟨-, hq, hp⟩ := decodeFrame_data_fields hd
    exact .inr ⟨hc, _, hq, _, hp, s.rxData_receiverSide _ _ _⟩
  | nak => exact .inl (s.rxNak_receiverSide _)
  | ack => exact .inl (State.ackThrough_receiverSide _ _)
  | expired => exact .inl (s.retxTimeout_sides _).receiver
  | deferralOver => exact .inl (State.transmit_sides _ _ _).receiver

end Handlers

end Sys2Proof.Machine

/-! PROOF. What no event touches (R34, R38, R60), and the statements that follow: ParametersAndPhase, BufferWriters,
MemoriesStayCanonical. -/

namespace Sys2Proof.Machine

/-! ### Parameters, buffers and the counter of resets over a handler -/

section HandlerFrames

variable (s : State) (e : Event)

@[simp] theorem State.handle_cfg : (s.handle e).cfg = s.cfg := by
  obtain ⟨n, -, h⟩ := s.handle_receiverWindow e
  have hkeep : (ReceiverWindow.advance^[n] s.receiverWindow).cfg = s.cfg :=
    Function.Iterate.rec (fun v : ReceiverWindow => v.cfg = s.cfg) (a := s.receiverWindow) rfl
      (f := ReceiverWindow.advance) (fun _ hv => hv) n
  exact (congrArg ReceiverWindow.cfg h).trans hkeep

@[simp] theorem State.handle_epoch : (s.handle e).epoch = s.epoch := by
  rcases s.handle_senderSide e with h | ⟨-, -, -, h⟩ | ⟨a, -, h⟩
  · exact congrArg SenderSide.epoch h
  · exact congrArg SenderSide.epoch h
  · exact (congrArg SenderSide.epoch h).trans (s.ackThrough_epoch a)

/-- Only UPPER_READY writes the outbox (R23). -/
theorem State.handle_outbox (h : e.code ≠ 1#3) : (s.handle e).outbox = s.outbox := by
  rcases s.handle_senderSide e with hs | ⟨hc, -⟩ | ⟨a, -, hs⟩
  · exact congrArg SenderSide.outbox hs
  · exact absurd hc h
  · exact (congrArg SenderSide.outbox hs).trans (s.ackThrough_outbox a)

/-- Only FRAME_RECEIVED writes the reassembly buffer (R29). -/
theorem State.handle_reassembly (h : e.code ≠ 3#3) : (s.handle e).reassembly = s.reassembly := by
  rcases s.handle_receiverSide e with hs | ⟨hc, -⟩
  · exact congrArg ReceiverSide.reassembly hs
  · exact absurd hc h

end HandlerFrames

/-! ### The step on an event -/

section EventSteps

variable {s t : State} {e : Event} {rest : List Input}

/-- A step on an event is the handler between the entry and the return (R201, R233, R235). -/
theorem step_event_eq (hx : s.inputs = .event e :: rest) (h : step s = .next t) :
    t = ((s.beginStep rest).handle e).finishStep := by
  obtain ⟨-, ⟨hi, -⟩ | ⟨r, hi, -⟩ | ⟨e', r, hi, rfl⟩⟩ := step_handles h
  · simp [hx] at hi
  · simp [hx] at hi
  · rw [hx] at hi
    cases hi
    rfl

theorem step_keeps_cfg (h : step s = .next t) : t.cfg = s.cfg := by
  obtain ⟨-, ⟨-, rfl⟩ | ⟨rest, -, rfl⟩ | ⟨e, rest, -, rfl⟩⟩ := step_handles h
  · rfl
  · rfl
  · exact (s.beginStep rest).handle_cfg e

end EventSteps

/-! ### The canonical form of the memories -/

section Canonical

variable {s t : State}

theorem State.onData_reassembly_wf (h : Memory.wf s.reassembly) (q : Nat) (p : Bytes) :
    Memory.wf (s.onData q p).state.reassembly := by
  unfold State.onData
  split_ifs
  · exact h
  · obtain ⟨_, _, _, hd⟩ := (s.store q p).drain_shape s.cfg.w
    show Memory.wf (State.drain s.cfg.w (s.store q p)).1.reassembly
    rw [hd]
    exact Memory.wf_writeBytes h _ p
  · exact h

theorem State.handle_outbox_wf (h : Memory.wf s.outbox) (e : Event) : Memory.wf (s.handle e).outbox := by
  rcases s.handle_senderSide e with hs | ⟨-, -, -, hs⟩ | ⟨a, -, hs⟩ <;>
    rw [show (s.handle e).outbox = _ from congrArg SenderSide.outbox hs]
  · exact h
  · exact Memory.wf_writeBytes h _ _
  · show Memory.wf (s.ackThrough a).outbox
    rwa [s.ackThrough_outbox]

theorem State.handle_reassembly_wf (h : Memory.wf s.reassembly) (e : Event) :
    Memory.wf (s.handle e).reassembly := by
  rcases s.handle_receiverSide e with hs | ⟨-, q, -, p, -, hs⟩ <;>
    rw [show (s.handle e).reassembly = _ from congrArg ReceiverSide.reassembly hs]
  · exact h
  · exact State.onData_reassembly_wf h q p

end Canonical

/-! ### The statements -/

/-- Settles O57: neither the handlers nor RESET write a parameter, and the return sets the phase. -/
theorem parametersAndPhase : Obligations.ParametersAndPhase := by
  intro s t h
  refine ⟨step_keeps_cfg h, fun hx => ?_⟩
  obtain ⟨-, ⟨hi, -⟩ | ⟨rest, -, rfl⟩ | ⟨e, rest, -, rfl⟩⟩ := step_handles h
  · exact absurd hi hx
  · rfl
  · rfl

/-- Settles O55: each buffer is written on its own side of the engine, and by one event only. -/
theorem bufferWriters : Obligations.BufferWriters := by
  intro s t e rest hx h
  cases step_event_eq hx h
  have hepoch : ((s.beginStep rest).handle e).finishStep.epoch = s.epoch := (s.beginStep rest).handle_epoch e
  exact ⟨fun hc => State.byteAt_congr ((s.beginStep rest).handle_outbox e hc) hepoch,
    fun hc => State.byteAt_congr ((s.beginStep rest).handle_reassembly e hc) hepoch⟩

/-- Settles O48: a handler writes a memory, if at all, by a slot write; RESET empties the listing. -/
theorem memoriesStayCanonical : Obligations.MemoriesStayCanonical := by
  intro s t ho hr h
  obtain ⟨-, ⟨-, rfl⟩ | ⟨rest, -, rfl⟩ | ⟨e, rest, -, rfl⟩⟩ := step_handles h
  · exact ⟨ho, hr⟩
  · exact ⟨List.Pairwise.nil, List.Pairwise.nil⟩
  · exact ⟨State.handle_outbox_wf (s := s.beginStep rest) ho e,
      State.handle_reassembly_wf (s := s.beginStep rest) hr e⟩

end Sys2Proof.Machine

/-! PROOF. The timer invariant (R37): arming follows submission, cancelling follows retirement, and the statement
that follows: TimersMatchOutstanding. -/

namespace Sys2Proof.Machine

section Timers

variable {s t : State}

/-! ### What the invariant looks at -/

theorem State.TimerInv.congr (h : s.TimerInv) (hw : t.senderWindow = s.senderWindow)
    (hrt : t.rtArmed = s.rtArmed) : t.TimerInv := by
  have hcfg : t.cfg = s.cfg := congrArg SenderWindow.cfg hw
  intro i hi
  rw [hrt, hcfg, State.outstanding_congr hw]
  exact h i (hcfg ▸ hi)

theorem State.resend_rtArmed_of_outstanding (hl : s.cfg.legal = true) (h : s.TimerInv) {q : Nat}
    (hq : q ≤ s.cfg.maxSeq) (hout : s.outstanding q = true) : (s.resend q).rtArmed = s.rtArmed := by
  rw [State.resend_rtArmed, State.set_rtArmed_of_armedAt (State.armedAt_of_outstanding hl h hq hout)]

theorem State.nakResend_rtArmed (hl : s.cfg.legal = true) (h : s.TimerInv) (a : Nat) :
    (s.nakResend a).rtArmed = s.rtArmed := by
  cases hout : s.outstanding (inc s.cfg a) with
  | true =>
    rw [s.nakResend_of_outstanding hout]
    exact State.resend_rtArmed_of_outstanding hl h (inc_le a) hout
  | false => rw [s.nakResend_of_not_outstanding hout]

/-! ### Submission and retirement -/

/-- SUBMIT makes one more sequence outstanding, the old `next_to_send` (R155). -/
theorem State.submit_outstanding_iff (h : s.senderWindow.Consistent) (hroom : s.bufferedCount < s.cfg.w)
    (p : Bytes) {q : Nat} (hq : q ≤ s.cfg.maxSeq) :
    (s.submit p).outstanding q = true ↔ s.outstanding q = true ∨ q = s.nextToSend := by
  have hack : s.ackExpected ≤ s.cfg.maxSeq := h.ack_expected
  have hnext : s.nextToSend ≤ s.cfg.maxSeq := h.next_to_send
  have hcount : s.bufferedCount = forward s.cfg s.ackExpected s.nextToSend := h.count
  have hsub : (s.submit p).senderWindow.Consistent := h.submit hroom
  have hedge : q = s.nextToSend ↔ forward s.cfg s.ackExpected q = s.bufferedCount := by
    rw [hcount]
    refine ⟨fun he => by rw [he], fun he => ?_⟩
    rw [← ahead_forward hack hq, he, ahead_forward hack hnext]
  rw [State.outstanding_iff h hq, hedge, State.outstanding_iff hsub hq]
  show forward s.cfg s.ackExpected q < s.bufferedCount + 1 ↔ _
  omega

/-- A retirement makes one sequence less outstanding, the old `ack_expected` (R160). -/
theorem State.retire_outstanding_iff (h : s.senderWindow.Consistent)
    (hne : s.ackExpected ≠ s.nextToSend) {q : Nat} (hq : q ≤ s.cfg.maxSeq) :
    s.retire.outstanding q = true ↔ s.outstanding q = true ∧ q ≠ s.ackExpected := by
  have hack : s.ackExpected ≤ s.cfg.maxSeq := h.ack_expected
  have hret : s.retire.senderWindow.Consistent := s.retire_senderWindow ▸ h.retire hne
  have hbound : s.bufferedCount ≤ s.cfg.w := h.bound
  have hw : s.cfg.w < s.cfg.maxSeq + 1 := Config.w_lt_r h.legal
  have hedge : q = s.ackExpected ↔ forward s.cfg s.ackExpected q = 0 := by
    refine ⟨fun he => by rw [he, forward_eq hack hack]; simp, fun he => ?_⟩
    rw [← ahead_forward hack hq, he, ahead_zero hack]
  rw [State.outstanding_iff h hq, Ne, hedge, State.outstanding_iff hret (by simpa using hq), State.retire_cfg,
    State.retire_ackExpected, State.retire_bufferedCount, forward_inc_eq hack hack hq,
    show forward s.cfg s.ackExpected s.ackExpected = 0 from (forward_eq hack hack).trans (by simp)]
  split_ifs <;> omega

/-- An admitted submission arms the entry of the sequence it makes outstanding (R37, R155, R158). -/
theorem State.submit_resend_timerInv (h : s.TimerInv) (hcons : s.senderWindow.Consistent)
    (hlen : s.rtArmed.length = s.cfg.w) (hroom : s.bufferedCount < s.cfg.w) (p : Bytes) :
    ((s.submit p).resend s.nextToSend).TimerInv := by
  have hl : s.cfg.legal = true := hcons.legal
  have hnext : s.nextToSend ≤ s.cfg.maxSeq := hcons.next_to_send
  intro i hi
  rw [State.resend_cfg, State.submit_cfg] at hi ⊢
  rw [State.resend_rtArmed, State.submit_cfg, State.submit_rtArmed, getD_set_slot hl hlen,
    State.outstanding_congr (State.resend_windows _ _).1]
  have hnew : (∃ q ≤ s.cfg.maxSeq, slot s.cfg q = i ∧ (s.submit p).outstanding q = true) ↔
      i = slot s.cfg s.nextToSend ∨ ∃ q ≤ s.cfg.maxSeq, slot s.cfg q = i ∧ s.outstanding q = true := by
    constructor
    · rintro ⟨q, hq, hslot, hout⟩
      rcases (State.submit_outstanding_iff hcons hroom p hq).mp hout with hout | rfl
      · exact .inr ⟨q, hq, hslot, hout⟩
      · exact .inl hslot.symm
    · rintro (rfl | ⟨q, hq, hslot, hout⟩)
      · exact ⟨_, hnext, rfl, (State.submit_outstanding_iff hcons hroom p hnext).mpr (.inr rfl)⟩
      · exact ⟨q, hq, hslot, (State.submit_outstanding_iff hcons hroom p hq).mpr (.inl hout)⟩
  rw [hnew, ← h i hi]
  split_ifs with hs <;> simp [hs]

/-- A retirement disarms the entry of the sequence it retires, which is no other outstanding sequence's
(R37, R131, R160). -/
theorem State.retire_timerInv (h : s.TimerInv) (hcons : s.senderWindow.Consistent)
    (hlen : s.rtArmed.length = s.cfg.w) (hne : s.ackExpected ≠ s.nextToSend) : s.retire.TimerInv := by
  have hack : s.ackExpected ≤ s.cfg.maxSeq := hcons.ack_expected
  have hl : s.cfg.legal = true := hcons.legal
  have hself : s.outstanding s.ackExpected = true := between_lower hne
  intro i hi
  rw [State.retire_cfg] at hi ⊢
  rw [State.retire_rtArmed, getD_set_slot hl hlen]
  split_ifs with hs
  · simp only [false_iff, not_exists, not_and]
    intro q hq hslot hout
    obtain ⟨hq', hnot⟩ := (State.retire_outstanding_iff hcons hne hq).mp hout
    exact hnot (State.slot_inj_of_outstanding hcons hq hack hq' hself (hslot.trans hs))
  · rw [h i hi]
    refine exists_congr fun q => and_congr_right fun hq => and_congr_right fun hslot => ?_
    rw [State.retire_outstanding_iff hcons hne hq]
    exact ⟨fun hout => ⟨hout, fun he => hs (he ▸ hslot).symm⟩, And.left⟩

theorem State.retireWhile_timerInv (h : s.TimerInv) (hcons : s.senderWindow.Consistent)
    (hlen : s.rtArmed.length = s.cfg.w) (fuel a : Nat) : (State.retireWhile fuel a s).TimerInv := by
  induction fuel generalizing s with
  | zero => exact h
  | succ fuel ih =>
    rw [State.retireWhile]
    split
    case isTrue hout =>
      exact ih (State.retire_timerInv h hcons hlen (s.edges_ne_of_outstanding hout))
        (State.retire_consistent hcons hout) (by simpa using hlen)
    case isFalse => exact h

/-- ACK_THROUGH after something that left the sender's window and the armed set alone (R37, R160). -/
theorem State.ackThrough_timerInv_of_eq (h : s.TimerInv) (hcons : s.senderWindow.Consistent)
    (hlen : s.rtArmed.length = s.cfg.w) (hw : t.senderWindow = s.senderWindow) (hrt : t.rtArmed = s.rtArmed)
    (a : Nat) : (t.ackThrough a).TimerInv := by
  have hcfg : t.cfg = s.cfg := congrArg SenderWindow.cfg hw
  exact State.retireWhile_timerInv (h.congr hw hrt) (hw ▸ hcons) (by rw [hrt, hlen, hcfg]) t.cfg.r a

/-! ### The handlers -/

@[simp] theorem State.nakOrDefer_rtArmed (s : State) (q : Nat) : (s.nakOrDefer q).rtArmed = s.rtArmed := by
  rcases s.nakOrDefer_cases q with ⟨-, -, h⟩ | ⟨-, h⟩ <;> simp [h, State.sendNak]

@[simp] theorem State.deliveries_rtArmed (s : State) (out : List Bytes) :
    (out.foldl State.deliver s).rtArmed = s.rtArmed := by
  rw [State.deliver_foldl]

theorem State.retxTimeout_rtArmed (hcons : s.senderWindow.Consistent) (h : s.TimerInv) {q : Nat}
    (hgen : s.genuineRetx q = true) : (s.retxTimeout q).rtArmed = s.rtArmed := by
  obtain ⟨⟨hq, hout⟩, -⟩ : (q ≤ s.cfg.maxSeq ∧ s.outstanding q = true) ∧ s.armedAt q = true := by
    simpa [State.genuineRetx] using hgen
  rw [State.retxTimeout_eq hcons hq hout h]

theorem State.handle_timerInv (h : s.TimerInv) (hcons : s.senderWindow.Consistent)
    (hlen : s.rtArmed.length = s.cfg.w) (e : Event) : (s.handle e).TimerInv := by
  have hl : s.cfg.legal = true := hcons.legal
  have hh := s.handling e
  generalize s.handle e = t at hh ⊢
  cases hh with
  | recorded => exact h.congr rfl rfl
  | submitted _ _ hadm => exact State.submit_resend_timerInv h hcons hlen (State.admissible_iff.mp hadm).1 _
  | channelReady => exact h.congr rfl rfl
  | corruptNak => exact h.congr (State.sendNak_windows _).1 (State.transmit_rtArmed _ _ _)
  | corruptDeferred => exact h.congr rfl rfl
  | malformed => exact h.congr rfl rfl
  | data => exact State.ackThrough_timerInv_of_eq h hcons hlen (by simp) (by simp) _
  | nak =>
    exact State.ackThrough_timerInv_of_eq h hcons hlen (by simp)
      (State.nakResend_rtArmed (s := s.classify .nak) hl (h.congr rfl rfl) _) _
  | ack => exact State.ackThrough_timerInv_of_eq (t := s.classify .ack) h hcons hlen rfl rfl _
  | expired _ hgen =>
    exact h.congr (s.retxTimeout_windows _).1 (State.retxTimeout_rtArmed hcons h hgen)
  | deferralOver => exact h.congr (State.sendAck_windows _).1 (State.transmit_rtArmed _ _ _)

theorem State.AfterReset.timerInv (h : s.AfterReset) : s.TimerInv := by
  intro i hi
  simp [h.rt_armed, h.ack_expected, h.next_to_send, State.outstanding, hi]

theorem step_keeps_timerInv (h : step s = .next t) (hlen : s.rtArmed.length = s.cfg.w)
    (hcons : s.senderWindow.Consistent) (hs : s.TimerInv) : t.TimerInv := by
  obtain ⟨-, ⟨-, rfl⟩ | ⟨rest, -, rfl⟩ | ⟨e, rest, -, rfl⟩⟩ := step_handles h
  · exact hs.congr rfl rfl
  · exact (s.beginStep rest).applyReset_afterReset.timerInv.congr rfl rfl
  · exact (State.handle_timerInv (s := s.beginStep rest) (hs.congr rfl rfl) hcons hlen e).congr rfl rfl

end Timers

/-- Settles O47: SUBMIT with its RESEND and the retirements move the armed set with the window; whatever else arms
a timer re-arms one of an outstanding sequence. -/
theorem timersMatchOutstanding : Obligations.TimersMatchOutstanding := by
  refine ⟨State.reset_afterReset.timerInv, fun s t hshape hring hsender htimers h => ?_⟩
  obtain ⟨hcons, -⟩ := (State.ringRegs_and_senderInv_iff (step_handles h).1).mp ⟨hring, hsender⟩
  exact step_keeps_timerInv h hshape.armed_length hcons htimers

end Sys2Proof.Machine

/-! PROOF. Every invariant of the engine together (R20 to R37, R69): the buffers are written wherever they may be
read, nothing is left waiting at `expected`, and the statements that follow: ResetMeetsInvariant,
StepKeepsInvariant, RegistersFitTheirWidths. -/

namespace Sys2Proof.Machine

/-! ### Written cells -/

section Written

theorem Memory.isSome_read_writeBytes (m : Memory) (a b : Nat) (p : Bytes)
    (h : (a ≤ b ∧ b < a + p.length) ∨ (m.read b).isSome = true) : ((m.writeBytes a p).read b).isSome = true := by
  by_cases hin : a ≤ b ∧ b < a + p.length
  · obtain ⟨k, rfl⟩ := Nat.exists_eq_add_of_le hin.1
    rw [Memory.read_writeBytes_inside m a p (Nat.lt_of_add_lt_add_left hin.2)]
    rfl
  · rw [Memory.read_writeBytes_outside m p (by omega)]
    exact h.resolve_left hin

/-- A slot write leaves every cell of the memory inside the `W` slots (R69). -/
theorem Memory.writeBytes_cells {m : Memory} {w i n : Nat} {p : Bytes} (h : ∀ x ∈ m, x.1 < w * n)
    (hi : i < w) (hp : p.length = n) : ∀ x ∈ m.writeBytes (i * n) p, x.1 < w * n := by
  intro x hx
  rcases Memory.mem_writeBytes hx with ⟨-, hlt⟩ | hx
  · calc x.1 < i * n + p.length := hlt
      _ = (i + 1) * n := by rw [hp, Nat.succ_mul]
      _ ≤ w * n := Nat.mul_le_mul_right n hi
  · exact h x hx

variable {s : State} {sp : Space} {i j : Nat} {p : Bytes}

theorem State.written_memWrite_self (hp : p.length = s.cfg.fixedLen) : (s.memWrite sp i p).written sp i := by
  intro k hk
  rw [State.memWrite_cfg] at hk ⊢
  rw [State.mem_memWrite]
  exact Memory.isSome_read_writeBytes _ _ _ _ (.inl (by omega))

theorem State.written_memWrite_of_written (h : s.written sp j) (i : Nat) (p : Bytes) :
    (s.memWrite sp i p).written sp j := by
  intro k hk
  rw [State.memWrite_cfg] at hk ⊢
  rw [State.mem_memWrite]
  exact Memory.isSome_read_writeBytes _ _ _ _ (.inr (h k hk))

end Written

/-! ### The buffers, each with its side -/

/-- The outbox's part of the buffer invariant (R23, R69). -/
structure State.OutboxInv (s : State) : Prop where
  canonical   : Memory.wf s.outbox
  cells       : ∀ x ∈ s.outbox, x.1 < s.cfg.w * s.cfg.fixedLen
  outstanding : ∀ q ≤ s.cfg.maxSeq, s.outstanding q = true → s.written .outbox (slot s.cfg q)

/-- The reassembly buffer's part of it (R29, R69). -/
structure State.ReassemblyInv (s : State) : Prop where
  canonical : Memory.wf s.reassembly
  cells     : ∀ x ∈ s.reassembly, x.1 < s.cfg.w * s.cfg.fixedLen
  arrived   : ∀ i < s.cfg.w, s.arrived.getD i false = true → s.written .reassembly i

section Buffers

variable {s t : State}

theorem State.bufferInv_iff : s.BufferInv ↔ s.OutboxInv ∧ s.ReassemblyInv :=
  ⟨fun ⟨ho, hr, hoc, hrc, hout, harr⟩ => ⟨⟨ho, hoc, hout⟩, hr, hrc, harr⟩,
    fun ⟨⟨ho, hoc, hout⟩, hr, hrc, harr⟩ => ⟨ho, hr, hoc, hrc, hout, harr⟩⟩

theorem State.written_outbox_of_senderSide (h : t.senderSide = s.senderSide) (i : Nat) :
    t.written .outbox i ↔ s.written .outbox i :=
  iff_of_eq (congrArg (fun v : SenderSide => ∀ k < v.window.cfg.fixedLen,
    (v.outbox.read (i * v.window.cfg.fixedLen + k)).isSome = true) h)

theorem State.written_reassembly_of_receiverSide (h : t.receiverSide = s.receiverSide) (i : Nat) :
    t.written .reassembly i ↔ s.written .reassembly i :=
  iff_of_eq (congrArg (fun v : ReceiverSide => ∀ k < v.window.cfg.fixedLen,
    (v.reassembly.read (i * v.window.cfg.fixedLen + k)).isSome = true) h)

theorem State.OutboxInv.congr (h : s.OutboxInv) (hs : t.senderSide = s.senderSide) : t.OutboxInv := by
  have hcfg := State.cfg_eq_of_senderSide hs
  obtain ⟨hwf, hcells, hout⟩ := h
  refine ⟨?_, ?_, fun q hq ho => ?_⟩
  · rwa [State.outbox_eq_of_senderSide hs]
  · rwa [State.outbox_eq_of_senderSide hs, hcfg]
  · rw [State.written_outbox_of_senderSide hs, hcfg]
    exact hout q (hcfg ▸ hq) (State.outstanding_eq_of_senderSide hs ▸ ho)

theorem State.ReassemblyInv.congr (h : s.ReassemblyInv) (hs : t.receiverSide = s.receiverSide) :
    t.ReassemblyInv := by
  have hcfg := State.cfg_eq_of_receiverSide hs
  have harr := State.arrived_eq_of_receiverSide hs
  obtain ⟨hwf, hcells, hbits⟩ := h
  refine ⟨?_, ?_, fun i hi ha => ?_⟩
  · rwa [State.reassembly_eq_of_receiverSide hs]
  · rwa [State.reassembly_eq_of_receiverSide hs, hcfg]
  · rw [State.written_reassembly_of_receiverSide hs]
    exact hbits i (hcfg ▸ hi) (harr ▸ ha)

/-- SUBMIT writes the slot of the sequence it makes outstanding (R155). -/
theorem State.OutboxInv.submit (h : s.OutboxInv) (hcons : s.senderWindow.Consistent)
    (hroom : s.bufferedCount < s.cfg.w) {p : Bytes} (hp : p.length = s.cfg.fixedLen) : (s.submit p).OutboxInv where
  canonical := Memory.wf_writeBytes h.canonical _ p
  cells := Memory.writeBytes_cells h.cells (slot_lt hcons.legal _) hp
  outstanding q hq hout := by
    rcases (State.submit_outstanding_iff hcons hroom p hq).mp hout with hout | rfl
    · exact State.written_memWrite_of_written (h.outstanding q hq hout) _ p
    · exact State.written_memWrite_self hp

/-- ACK_THROUGH writes no byte and makes nothing outstanding (R160). -/
theorem State.OutboxInv.ackThrough (h : s.OutboxInv) (hs : s.RingRegs) {a : Nat} (ha : a ≤ s.cfg.maxSeq) :
    (s.ackThrough a).OutboxInv := by
  cases hout : s.outstanding a with
  | false => rwa [s.ackThrough_outside hout]
  | true =>
    refine ⟨?_, ?_, fun q hq ho => ?_⟩
    · rw [s.ackThrough_outbox]; exact h.canonical
    · rw [s.ackThrough_outbox, s.ackThrough_cfg]; exact h.cells
    · rw [s.ackThrough_cfg] at hq ⊢
      have hold := h.outstanding q hq ((State.ackThrough_outstanding_iff hs ha hout hq).mp ho).1
      simpa [State.written] using hold

/-- The store step writes the slot whose arrival bit it sets (R170). -/
theorem State.ReassemblyInv.store (h : s.ReassemblyInv) (hl : s.cfg.legal = true)
    (hlen : s.arrived.length = s.cfg.w) (q : Nat) {p : Bytes} (hp : p.length = s.cfg.fixedLen) :
    (s.store q p).ReassemblyInv where
  canonical := Memory.wf_writeBytes h.canonical _ p
  cells := Memory.writeBytes_cells h.cells (slot_lt hl q) hp
  arrived i hi ha := by
    rw [State.store_arrived, getD_set_slot hl hlen] at ha
    by_cases hslot : i = slot s.cfg q
    · exact hslot ▸ State.written_memWrite_self (s := s) hp
    · rw [if_neg hslot] at ha
      exact State.written_memWrite_of_written (h.arrived i hi ha) _ p

/-- Advances write no byte and set no arrival bit (R170). -/
theorem State.ReassemblyInv.advance_iterate (h : s.ReassemblyInv) (hl : s.cfg.legal = true)
    (hlen : s.arrived.length = s.cfg.w) (hs : s.RingRegs) (n : Nat) :
    (State.advance^[n] s).ReassemblyInv := by
  have hbits (i : Nat) (ha : (State.advance^[n] s).arrived.getD i false = true) :
      s.arrived.getD i false = true := by
    rw [State.advance_iterate_arrived_getD hl hlen hs, Bool.and_eq_true] at ha
    exact ha.1
  obtain ⟨ar, hframe⟩ : ∃ ar, State.advance^[n] s = { s with
      arrived := ar, expected := ahead s.cfg s.expected n, tooFar := ahead s.cfg s.tooFar n } :=
    ⟨_, State.advance_iterate_frame hs n⟩
  rw [hframe] at hbits ⊢
  exact ⟨h.canonical, h.cells, fun i hi ha => h.arrived i hi (hbits i ha)⟩

end Buffers

/-! ### The receiver between steps -/

/-- What the receiver's side keeps besides its edges: one arrival bit per slot, nothing waiting at `expected`, and
the buffer written where a bit is set (R27, R28, R29). -/
structure State.Settled (s : State) : Prop where
  arrived_length : s.arrived.length = s.cfg.w
  waiting        : s.arrivedAt s.expected = false
  buffer         : s.ReassemblyInv

section Receiving

variable {s t : State}

theorem State.Settled.congr (h : s.Settled) (hs : t.receiverSide = s.receiverSide) : t.Settled where
  arrived_length := by
    rw [State.arrived_eq_of_receiverSide hs, State.cfg_eq_of_receiverSide hs, h.arrived_length]
  waiting := by
    rw [State.arrivedAt_of_receiverSide hs, State.expected_eq_of_receiverSide hs, h.waiting]
  buffer := h.buffer.congr hs

/-- ON_DATA leaves the state alone, or stores and drains a run (R170). -/
theorem State.onData_cases (s : State) (q : Nat) (p : Bytes) :
    (s.onData q p).state = s ∨
    (s.inWindow q = true ∧ s.arrivedAt q = false ∧ ∃ n, (s.store q p).Run s.cfg.w n ∧
      (s.onData q p).state = State.advance^[n] (s.store q p)) := by
  cases hw : s.inWindow q with
  | false => exact .inl (by rw [State.onData_outside p hw])
  | true =>
    cases ha : s.arrivedAt q with
    | true => exact .inl (by rw [State.onData_arrived p hw ha])
    | false =>
      obtain ⟨n, hrun⟩ := State.exists_run s.cfg.w (s.store q p)
      exact .inr ⟨rfl, rfl, n, hrun, by rw [State.onData_new p hw ha, hrun.drain_eq]⟩

theorem State.Settled.onData (h : s.Settled) (hl : s.cfg.legal = true) (hs : s.RingRegs) (q : Nat) {p : Bytes}
    (hp : p.length = s.cfg.fixedLen) : (s.onData q p).state.Settled := by
  rcases s.onData_cases q p with ho | ⟨-, -, n, hrun, ho⟩ <;> rw [ho]
  · exact h
  · have hlen : (s.store q p).arrived.length = s.cfg.w := by simpa using h.arrived_length
    have hs' := State.store_ringRegs hs q p
    refine ⟨?_, State.Run.waiting (s := s.store q p) hrun hl hlen hs', ?_⟩
    · rw [State.advance_iterate_arrived_length, State.advance_iterate_cfg]
      exact hlen
    · exact State.ReassemblyInv.advance_iterate (h.buffer.store hl h.arrived_length q hp) hl hlen hs' n

end Receiving

/-! ### The handlers keep the tables' lengths and both sides -/

section Handlers

variable {s : State}

theorem State.ackThrough_rtArmed_length (s : State) (a : Nat) :
    (s.ackThrough a).rtArmed.length = s.rtArmed.length := by
  have hloop (fuel : Nat) : (State.retireWhile fuel a s).rtArmed.length = s.rtArmed.length := by
    induction fuel generalizing s with
    | zero => rfl
    | succ fuel ih =>
      rw [State.retireWhile]
      split
      · rw [ih, State.retire_rtArmed, List.length_set]
      · rfl
  exact hloop s.cfg.r

theorem State.armAll_lengths (l : List (Nat × Nat)) (s : State) :
    (State.armAll l s).rtArmed.length = s.rtArmed.length ∧ (State.armAll l s).rtDelay.length = s.rtDelay.length := by
  induction l generalizing s with
  | nil => exact ⟨rfl, rfl⟩
  | cons x l ih =>
    obtain ⟨harmed, hdelay⟩ := ih (s.armRt x.1 x.2)
    exact ⟨harmed.trans (by simp), hdelay.trans (by simp)⟩

theorem State.retxTimeout_lengths (s : State) (q : Nat) :
    (s.retxTimeout q).rtArmed.length = s.rtArmed.length ∧ (s.retxTimeout q).rtDelay.length = s.rtDelay.length := by
  cases h : s.genuineRetx q with
  | false => rw [State.retxTimeout_of_not_genuine h]; exact ⟨rfl, rfl⟩
  | true =>
    rw [State.retxTimeout_of_genuine h]
    obtain ⟨harmed, hdelay⟩ := State.armAll_lengths (retxTimers s.cfg s.outstanding q) ((s.disarmRt q).transmit .data q)
    exact ⟨harmed.trans (by simp), hdelay.trans (by simp)⟩

theorem State.nakResend_lengths (s : State) (a : Nat) :
    (s.nakResend a).rtArmed.length = s.rtArmed.length ∧ (s.nakResend a).rtDelay.length = s.rtDelay.length := by
  unfold State.nakResend
  split <;> simp

/-- No handler changes the length of a timer table (R35). -/
theorem State.handle_timer_lengths (s : State) (e : Event) :
    (s.handle e).rtArmed.length = s.rtArmed.length ∧ (s.handle e).rtDelay.length = s.rtDelay.length := by
  have h := s.handling e
  generalize s.handle e = t at h ⊢
  cases h with
  | recorded => exact ⟨rfl, rfl⟩
  | submitted => simp
  | channelReady => exact ⟨rfl, rfl⟩
  | corruptNak => simp [State.sendNak]
  | corruptDeferred => exact ⟨rfl, rfl⟩
  | malformed => exact ⟨rfl, rfl⟩
  | @data _ q =>
    rcases s.nakOrDefer_cases q with ⟨-, -, h⟩ | ⟨-, h⟩ <;>
      simp [State.rxData, State.ackThrough_rtArmed_length, h, State.sendNak, State.deliver_foldl]
  | nak =>
    obtain ⟨harmed, hdelay⟩ := State.nakResend_lengths (s.classify .nak) _
    exact ⟨(State.ackThrough_rtArmed_length _ _).trans harmed,
      (congrArg List.length (State.ackThrough_rtDelay _ _)).trans hdelay⟩
  | ack => simp [State.rxAck, State.ackThrough_rtArmed_length]
  | expired => exact s.retxTimeout_lengths _
  | deferralOver => simp [State.sendAck]

theorem State.handle_settled (h : s.Settled) (hl : s.cfg.legal = true) (hs : s.RingRegs) (e : Event) :
    (s.handle e).Settled := by
  rcases s.handle_receiverSide e with hside | ⟨-, q, -, p, hp, hside⟩
  · exact h.congr hside
  · exact (h.onData hl hs q hp).congr hside

theorem State.handle_outboxInv (h : s.OutboxInv) (hcons : s.senderWindow.Consistent) (hs : s.RingRegs)
    (e : Event) : (s.handle e).OutboxInv := by
  rcases s.handle_senderSide e with hside | ⟨-, hlen, hadm, hside⟩ | ⟨a, ha, hside⟩
  · exact h.congr hside
  · exact (h.submit hcons (State.admissible_iff.mp hadm).1 hlen).congr hside
  · exact (h.ackThrough hs ha).congr hside

end Handlers

/-! ### Reset and the step -/

section Steps

variable {s t : State}

/-- A state with the values of R41 and no written cell meets every invariant. -/
theorem State.AfterReset.inv (h : s.AfterReset) (hl : s.cfg.legal = true) (ho : s.outbox = [])
    (hr : s.reassembly = []) : s.Inv := by
  obtain ⟨hring, hsender⟩ := (State.ringRegs_and_senderInv_iff hl).mpr ⟨h.consistent hl, h.onRing⟩
  have hbits (i : Nat) : s.arrived.getD i false = false := by
    rw [h.arrived, List.getD_eq_getElem?_getD, List.getElem?_replicate]
    split <;> rfl
  refine ⟨hl, ⟨?_, ?_, h.rt_delay⟩, hring, hsender, ⟨h.aligned, hbits _⟩, h.timerInv, ?gate, ?buffers, h.phase⟩
  · rw [h.arrived, List.length_replicate]
  · rw [h.rt_armed, List.length_replicate]
  case gate => rw [State.AdmissionInv, State.admissible, h.adm_enable, h.chan_ready, Bool.and_false]
  case buffers =>
    refine State.bufferInv_iff.mpr ⟨⟨ho ▸ List.Pairwise.nil, by simp [ho], fun q _ hout => ?_⟩,
      ⟨hr ▸ List.Pairwise.nil, by simp [hr], fun i _ ha => ?_⟩⟩
    · simp [State.outstanding, h.ack_expected, h.next_to_send] at hout
    · exact absurd ha (Bool.eq_false_iff.mp (hbits i))

theorem State.applyReset_finishStep_afterReset (s : State) : s.applyReset.finishStep.AfterReset := by
  constructor <;> simp [State.applyReset, State.admissible]

theorem State.Inv.settled (h : s.Inv) : s.Settled :=
  ⟨h.shaped.arrived_length, h.receiver.waiting, (State.bufferInv_iff.mp h.buffers).2⟩

theorem State.Inv.outboxInv (h : s.Inv) : s.OutboxInv := (State.bufferInv_iff.mp h.buffers).1

theorem State.Inv.consistent (h : s.Inv) : s.senderWindow.Consistent :=
  ((State.ringRegs_and_senderInv_iff h.legal).mp ⟨h.ring, h.sender⟩).1

/-- A block that waits keeps its invariants: the action list is in none of them. -/
theorem State.Inv.idle (h : s.Inv) : s.idle.Inv where
  legal := h.legal
  shaped := ⟨h.shaped.arrived_length, h.shaped.armed_length, h.shaped.delay_length⟩
  ring := ⟨h.ring.ack_expected, h.ring.next_to_send, h.ring.expected, h.ring.too_far⟩
  sender := ⟨h.sender.count, h.sender.bound⟩
  receiver := ⟨h.receiver.too_far, h.receiver.waiting⟩
  timers := h.timers.congr rfl rfl
  admission := h.admission
  buffers := State.bufferInv_iff.mpr ⟨h.outboxInv.congr rfl, h.settled.buffer.congr rfl⟩
  phase := h.phase

/-- An event keeps them: each part by the lemma on the side it speaks of. -/
theorem State.Inv.step_event (h : s.Inv) {e : Event} {rest : List Input} (hx : s.inputs = .event e :: rest)
    (hstep : step s = .next t) : t.Inv := by
  have hcfg : t.cfg = s.cfg := step_keeps_cfg hstep
  obtain ⟨hring, hsender⟩ := senderWindowInvariant.2 s t h.ring h.sender hstep
  have htimers := timersMatchOutstanding.2 s t h.shaped h.ring h.sender h.timers hstep
  have htoo_far := receiverWindowInvariant.2.1 s t h.receiver.too_far hstep
  have hgate : t.AdmissionInv := step_admissionInv (by simp [hx]) hstep
  cases step_event_eq hx hstep
  let s₁ := s.beginStep rest
  have hs₁ : s₁.RingRegs := ⟨h.ring.ack_expected, h.ring.next_to_send, h.ring.expected, h.ring.too_far⟩
  have hsettled : (s₁.handle e).Settled := State.handle_settled (s := s₁) (h.settled.congr rfl) h.legal hs₁ e
  have houtbox : (s₁.handle e).OutboxInv :=
    State.handle_outboxInv (s := s₁) (h.outboxInv.congr rfl) h.consistent hs₁ e
  obtain ⟨harmed, hdelay⟩ := s₁.handle_timer_lengths e
  refine ⟨hcfg ▸ h.legal, ⟨hsettled.arrived_length, ?_, ?_⟩, hring, hsender, ⟨htoo_far, hsettled.waiting⟩, htimers,
    hgate, ?_, rfl⟩
  · exact (harmed.trans h.shaped.armed_length).trans (congrArg Config.w hcfg.symm)
  · exact (hdelay.trans h.shaped.delay_length).trans (congrArg Config.w hcfg.symm)
  · exact State.bufferInv_iff.mpr ⟨houtbox.congr rfl, hsettled.buffer.congr rfl⟩

end Steps

/-! ### Widths -/

theorem Config.le_two_pow_clog2 (n : Nat) : n ≤ 2 ^ Config.clog2 n := by
  unfold Config.clog2
  split_ifs with h
  · exact h
  · have := Nat.lt_log2_self (n := n - 1)
    omega

/-! ### The statements -/

/-- Settles O43: the values of R41 meet every invariant, and State.reset lists no cell. -/
theorem resetMeetsInvariant : Obligations.ResetMeetsInvariant :=
  State.reset_afterReset.inv (by decide) rfl rfl

/-- Settles O44: RESET leaves the values of R41, waiting leaves all but the actions, and an event moves either side
only by operations that keep it. -/
theorem stepKeepsInvariant : Obligations.StepKeepsInvariant := by
  intro s t h hstep
  obtain ⟨hl, ⟨-, rfl⟩ | ⟨rest, -, rfl⟩ | ⟨e, rest, hx, -⟩⟩ := step_handles hstep
  · exact h.idle
  · exact (s.beginStep rest).applyReset_finishStep_afterReset.inv hl rfl rfl
  · exact h.step_event hx hstep

/-- Settles O58: each register is below a number whose rounded logarithm is its width. -/
theorem registersFitTheirWidths : Obligations.RegistersFitTheirWidths := by
  intro s h
  have hring {n : Nat} (hn : n ≤ s.cfg.maxSeq) : n < 2 ^ s.cfg.seqBits :=
    (Nat.lt_succ_of_le hn).trans_le (Config.le_two_pow_clog2 s.cfg.r)
  refine ⟨hring h.ring.ack_expected, hring h.ring.next_to_send, hring h.ring.expected, hring h.ring.too_far,
    (Nat.lt_succ_of_le h.sender.bound).trans_le (Config.le_two_pow_clog2 _), fun q => ?_⟩
  refine (slot_lt h.legal q).trans_le ?_
  unfold Config.slotBits
  split_ifs with hw
  · exact hw.trans_le (by decide)
  · exact Config.le_two_pow_clog2 _

end Sys2Proof.Machine

/-! PROOF. ERR over an event (R33, R93, R224): only the recorded events and malformed buffers set a bit, and the
statements that follow: ErrBitsAreSticky, HonouredEventsSetNoErr. -/

namespace Sys2Proof.Machine

section Errors

variable (s : State)

@[simp] theorem State.nakOrDefer_err (q : Nat) : (s.nakOrDefer q).err = s.err := by
  rcases s.nakOrDefer_cases q with ⟨-, -, h⟩ | ⟨-, h⟩ <;> simp [h, State.sendNak]

@[simp] theorem State.nakResend_err (a : Nat) : (s.nakResend a).err = s.err := by
  unfold State.nakResend
  split <;> simp

theorem State.retxTimeout_err_of_genuine {q : Nat} (h : s.genuineRetx q = true) : (s.retxTimeout q).err = s.err := by
  rw [State.retxTimeout_of_genuine h, State.armAll_frame]
  exact State.transmit_err _ _ _

/-- An event leaves ERR alone, or raises one bit and is one the environment was obliged not to present (R224,
R256). -/
theorem State.handle_err (e : Event) : (s.handle e).err = s.err ∨
    ((s.AdmissionInv → s.honouredBy e = false) ∧ ∃ x, (s.handle e).err = (s.raise x).err) := by
  have h := s.handling e
  generalize s.handle e = t at h ⊢
  cases h with
  | recorded x hx => exact .inr ⟨hx, x, rfl⟩
  | submitted => exact .inl (by simp)
  | channelReady => exact .inl rfl
  | corruptNak => exact .inl (State.transmit_err _ _ _)
  | corruptDeferred => exact .inl rfl
  | malformed hc hd =>
    refine .inr ⟨fun _ => ?_, .malformed, rfl⟩
    rw [State.honouredBy_frameReceived hc, hd]
    rfl
  | data => exact .inl (by simp [State.rxData, State.deliver_foldl])
  | nak => exact .inl (by simp [State.rxNak])
  | ack => exact .inl (by simp [State.rxAck])
  | expired _ hgen => exact .inl (s.retxTimeout_err_of_genuine hgen)
  | deferralOver => exact .inl (State.transmit_err _ _ _)

end Errors

/-- Settles O49: raising a bit leaves the others set. -/
theorem errBitsAreSticky : Obligations.ErrBitsAreSticky := by
  intro s t e rest hx h b hb
  cases step_event_eq hx h
  rcases (s.beginStep rest).handle_err e with herr | ⟨-, x, herr⟩
  · exact (congrArg (BitVec.getLsbD · b.index) herr).trans hb
  · refine (congrArg (BitVec.getLsbD · b.index) herr).trans (((s.beginStep rest).raise_errBit x b).trans ?_)
    rw [show (s.beginStep rest).errBit b = true from hb, Bool.true_or]

/-- Settles O50: an event that raises a bit is not honoured, given that the gate is its expression. -/
theorem honouredEventsSetNoErr : Obligations.HonouredEventsSetNoErr := by
  intro s t e rest hs hx hhon h
  cases step_event_eq hx h
  rcases (s.beginStep rest).handle_err e with herr | ⟨hno, -⟩
  · exact herr
  · exact absurd (hno hs.admission) (Bool.not_eq_false _ ▸ hhon)

end Sys2Proof.Machine

/-! PROOF. What leaves the block (R95, R157, R186): the frames and payloads each operation adds to the outputs and
the two flags that follow them, and the statements: OneFramePerStep, FlagTransitions, NoNakWithDelivery. -/

namespace Sys2Proof.Machine

/-! ### Actions counted and actions read -/

section ActionLists

variable (l : List Action)

theorem Action.isTx_eq_isSome (a : Action) : a.isTx = a.frame.isSome := by cases a <;> rfl

theorem Action.isDeliver_eq_isSome (a : Action) : a.isDeliver = a.payload.isSome := by cases a <;> rfl

theorem Action.frame_eq_some {a : Action} {b : Bytes} (h : a.frame = some b) : a = .tx b := by
  cases a <;> cases h
  rfl

theorem length_filter_isSome {α β : Type} (f : α → Option β) (l : List α) :
    (l.filter fun x => (f x).isSome).length = (l.filterMap f).length := by
  rw [List.length_filterMap_eq_countP, List.countP_eq_length_filter]

theorem any_isSome {α β : Type} (f : α → Option β) (l : List α) :
    (l.any fun x => (f x).isSome) = !(l.filterMap f).isEmpty := by
  induction l with
  | nil => rfl
  | cons x l ih => cases hx : f x <;> simp [hx, ih]

theorem length_filter_isTx : (l.filter Action.isTx).length = (l.filterMap Action.frame).length := by
  simp only [← length_filter_isSome, ← Action.isTx_eq_isSome]

theorem length_filter_isDeliver : (l.filter Action.isDeliver).length = (l.filterMap Action.payload).length := by
  simp only [← length_filter_isSome, ← Action.isDeliver_eq_isSome]

theorem any_isTx : l.any Action.isTx = !(l.filterMap Action.frame).isEmpty := by
  simp only [← any_isSome, ← Action.isTx_eq_isSome]

theorem any_isDeliver : l.any Action.isDeliver = !(l.filterMap Action.payload).isEmpty := by
  simp only [← any_isSome, ← Action.isDeliver_eq_isSome]

end ActionLists

/-! ### What an operation sends and delivers -/

def Frame.isNak : Frame → Bool
  | .data _ _ _ => false
  | .ack _ => false
  | .nak _ => true

/-- From `s` to `t` the frames `fs` were sent and then the payloads `out` delivered: the channel is taken by a
frame, suppression begins with a NAK and ends with a delivery (R30, R31, R95). -/
structure State.Sends (s t : State) (fs : List Frame) (out : List Bytes) : Prop where
  cfg        : t.cfg = s.cfg
  frames     : t.actions.filterMap Action.frame =
    s.actions.filterMap Action.frame ++ fs.map (encodeFrame s.cfg)
  payloads   : t.actions.filterMap Action.payload = s.actions.filterMap Action.payload ++ out
  chan_ready : t.chanReady = (s.chanReady && fs.isEmpty)
  suppressed : t.nakSuppressed = ((s.nakSuppressed || fs.any Frame.isNak) && out.isEmpty)

section Sending

variable {s t u : State} {fs fs' : List Frame} {out : List Bytes}

/-- Something that sends nothing: the new actions are no frame and no payload. -/
theorem State.Sends.of_quiet {acts : List Action} (hcfg : t.cfg = s.cfg) (hacts : t.actions = s.actions ++ acts)
    (hf : acts.filterMap Action.frame = []) (hp : acts.filterMap Action.payload = [])
    (hchan : t.chanReady = s.chanReady) (hnak : t.nakSuppressed = s.nakSuppressed) : s.Sends t [] [] where
  cfg := hcfg
  frames := by rw [hacts, List.filterMap_append, hf]; rfl
  payloads := by rw [hacts, List.filterMap_append, hp]
  chan_ready := by simp [hchan]
  suppressed := by simp [hnak]

theorem State.Sends.of_same (hcfg : t.cfg = s.cfg) (hacts : t.actions = s.actions)
    (hchan : t.chanReady = s.chanReady) (hnak : t.nakSuppressed = s.nakSuppressed) : s.Sends t [] [] :=
  .of_quiet hcfg (hacts.trans (List.append_nil _).symm) rfl rfl hchan hnak

theorem State.Sends.refl (s : State) : s.Sends s [] [] := .of_same rfl rfl rfl rfl

/-- Frames first, then more frames and payloads. -/
theorem State.Sends.trans (h : s.Sends t fs []) (h' : t.Sends u fs' out) : s.Sends u (fs ++ fs') out where
  cfg := h'.cfg.trans h.cfg
  frames := by rw [h'.frames, h.frames, h.cfg, List.map_append, List.append_assoc]
  payloads := by rw [h'.payloads, h.payloads, List.append_nil]
  chan_ready := by rw [h'.chan_ready, h.chan_ready, Bool.and_assoc]; cases fs <;> simp
  suppressed := by rw [h'.suppressed, h.suppressed]; simp [Bool.or_assoc]

theorem State.Sends.deliver (h : s.Sends t fs []) (h' : t.Sends u [] out) : s.Sends u fs out :=
  List.append_nil fs ▸ h.trans h'

theorem State.Sends.trans_quiet (h : s.Sends t fs out) (h' : t.Sends u [] []) : s.Sends u fs out where
  cfg := h'.cfg.trans h.cfg
  frames := by rw [h'.frames, h.frames]; simp
  payloads := by rw [h'.payloads, h.payloads]; simp
  chan_ready := by rw [h'.chan_ready, h.chan_ready]; simp
  suppressed := by rw [h'.suppressed, h.suppressed]; simp

variable (s)

theorem State.classify_sends (c : FrameClass) : s.Sends (s.classify c) [] [] := .of_same rfl rfl rfl rfl

theorem State.raise_sends (b : ErrBit) : s.Sends (s.raise b) [] [] := .of_same rfl rfl rfl rfl

theorem State.submit_sends (p : Bytes) : s.Sends (s.submit p) [] [] := .of_same rfl rfl rfl rfl

theorem State.disarmRt_sends (q : Nat) : s.Sends (s.disarmRt q) [] [] := .of_same rfl rfl rfl rfl

theorem State.disarmAck_sends : s.Sends s.disarmAck [] [] := .of_same rfl rfl rfl rfl

theorem State.armAck_sends (d : Nat) : s.Sends (s.armAck d) [] [] := .of_quiet rfl rfl rfl rfl rfl rfl

theorem State.armRt_sends (q d : Nat) : s.Sends (s.armRt q d) [] [] := .of_quiet rfl rfl rfl rfl rfl rfl

theorem State.onData_sends (q : Nat) (p : Bytes) : s.Sends (s.onData q p).state [] [] := by
  obtain ⟨_, _, _, _, h⟩ := s.onData_shape q p
  rw [h]
  exact .of_same rfl rfl rfl rfl

theorem State.armAll_sends (l : List (Nat × Nat)) : s.Sends (State.armAll l s) [] [] := by
  rw [State.armAll_frame]
  refine .of_quiet rfl rfl ?_ ?_ rfl rfl <;> simp [Action.frame, Action.payload]

theorem State.retire_sends : s.Sends s.retire [] [] := by
  refine .of_quiet (acts := if s.armedAt s.ackExpected then [.cancelRt s.ackExpected] else [])
    s.retire_cfg ?_ ?_ ?_ s.retire_chanReady s.retire_nakSuppressed
  · rw [State.retire_actions]; split <;> simp
  · split <;> rfl
  · split <;> rfl

theorem State.ackThrough_sends (a : Nat) : s.Sends (s.ackThrough a) [] [] := by
  have hloop (fuel : Nat) : s.Sends (State.retireWhile fuel a s) [] [] := by
    induction fuel generalizing s with
    | zero => exact .refl s
    | succ fuel ih =>
      rw [State.retireWhile]
      split
      · exact s.retire_sends.trans (ih s.retire)
      · exact .refl s
  exact hloop s.cfg.r

/-- TRANSMIT sends its one frame (R157). -/
theorem State.transmit_sends (k : FrameKind) (q : Nat) : s.Sends (s.transmit k q) [s.frameOf k q] [] := by
  have hquiet : (if s.ackArmed then [Action.cancelAck] else []).filterMap Action.frame = [] := by
    split <;> rfl
  refine ⟨s.transmit_cfg k q, ?_, ?_, ?_, ?_⟩
  · simp [Action.frame, hquiet]
  · simp [Action.payload]
  · simp
  · rw [State.transmit_eq]
    cases k <;> simp [State.frameOf, Frame.isNak]

theorem State.resend_sends (q : Nat) : s.Sends (s.resend q) [s.frameOf .data q] [] :=
  (s.transmit_sends .data q).trans_quiet (State.armRt_sends _ _ _)

theorem State.sendNak_sends : s.Sends s.sendNak [.nak s.ackval] [] := s.transmit_sends .nak 0

theorem State.sendAck_sends : s.Sends s.sendAck [.ack s.ackval] [] := s.transmit_sends .ack 0

theorem deliveryActions_frames (d : Nat) (out : List Bytes) :
    (deliveryActions d out).filterMap Action.frame = [] := by
  induction out with
  | nil => rfl
  | cons x out ih => exact ih

theorem deliveryActions_payloads (d : Nat) (out : List Bytes) :
    (deliveryActions d out).filterMap Action.payload = out := by
  induction out with
  | nil => rfl
  | cons x out ih => exact congrArg (x :: ·) ih

/-- Deliveries hand out their payloads in order (R186). -/
theorem State.deliveries_sends (out : List Bytes) : s.Sends (out.foldl State.deliver s) [] out := by
  rw [State.deliver_foldl]
  refine ⟨rfl, ?_, ?_, by simp, by simp⟩
  · simp [deliveryActions_frames]
  · simp [deliveryActions_payloads]

/-- The NAK-or-defer decision sends a NAK or nothing (R186). -/
theorem State.nakOrDefer_sends (q : Nat) : ∃ fs, s.Sends (s.nakOrDefer q) fs [] ∧
    (fs = [] ∨ (q ≠ s.expected ∧ fs = [.nak s.ackval])) := by
  rcases s.nakOrDefer_cases q with ⟨hne, -, h⟩ | ⟨-, h⟩ <;> rw [h]
  · exact ⟨_, s.sendNak_sends, .inr ⟨hne, rfl⟩⟩
  · exact ⟨_, s.armAck_sends _, .inl rfl⟩

/-- RX_DATA sends what the decision sends and delivers what ON_DATA returns (R186). -/
theorem State.rxData_sends (a q : Nat) (p : Bytes) : ∃ fs, s.Sends (s.rxData a q p) fs (s.onData q p).out ∧
    (fs = [] ∨ (q ≠ s.expected ∧ fs = [.nak s.ackval])) := by
  obtain ⟨fs, hfs, hcases⟩ := s.nakOrDefer_sends q
  refine ⟨fs, ?_, hcases⟩
  have hout : ((s.nakOrDefer q).onData q p).out = (s.onData q p).out :=
    (State.onData_receiverSide_congr (s.nakOrDefer_sides q).receiver q p).2.1
  have hstored := (State.onData_sends (s.nakOrDefer q) q p).trans
    (State.classify_sends _ ((s.nakOrDefer q).onData q p).cls)
  have hdelivered := hstored.trans (State.deliveries_sends _ ((s.nakOrDefer q).onData q p).out)
  rw [← hout]
  exact (hfs.deliver hdelivered).trans_quiet (State.ackThrough_sends _ a)

theorem State.nakResend_sends (a : Nat) : ∃ fs, s.Sends (s.nakResend a) fs [] ∧
    (fs = [] ∨ (s.outstanding (inc s.cfg a) = true ∧ fs = [s.frameOf .data (inc s.cfg a)])) := by
  cases h : s.outstanding (inc s.cfg a) with
  | true => exact ⟨_, (s.nakResend_of_outstanding h).symm ▸ s.resend_sends _, .inr ⟨rfl, rfl⟩⟩
  | false => exact ⟨_, (s.nakResend_of_not_outstanding h).symm ▸ .refl s, .inl rfl⟩

theorem State.retxTimeout_sends {q : Nat} (h : s.genuineRetx q = true) :
    s.Sends (s.retxTimeout q) [s.frameOf .data q] [] := by
  rw [State.retxTimeout_of_genuine h]
  exact ((s.disarmRt_sends q).trans (State.transmit_sends _ .data q)).trans_quiet (State.armAll_sends _ _)

end Sending

/-! ### The handlers -/

section Handlers

variable (s : State)

theorem State.onData_out_length (q : Nat) (p : Bytes) : (s.onData q p).out.length ≤ s.cfg.w := by
  unfold State.onData
  split_ifs
  · exact Nat.zero_le _
  · exact (s.store q p).drain_length s.cfg.w
  · exact Nat.zero_le _

/-- Every event but CHANNEL_READY sends at most one frame and delivers at most `W` payloads (R95). -/
theorem State.handle_sends {e : Event} (hcode : e.code ≠ 2#3) :
    ∃ fs out, s.Sends (s.handle e) fs out ∧ fs.length ≤ 1 ∧ out.length ≤ s.cfg.w := by
  have quiet {t : State} (h : s.Sends t [] []) :
      ∃ fs out, s.Sends t fs out ∧ fs.length ≤ 1 ∧ out.length ≤ s.cfg.w :=
    ⟨_, _, h, Nat.zero_le _, Nat.zero_le _⟩
  have single {t : State} {f : Frame} (h : s.Sends t [f] []) :
      ∃ fs out, s.Sends t fs out ∧ fs.length ≤ 1 ∧ out.length ≤ s.cfg.w :=
    ⟨_, _, h, Nat.le_refl 1, Nat.zero_le _⟩
  have h := s.handling e
  generalize s.handle e = t at h ⊢
  cases h with
  | recorded x => exact quiet (s.raise_sends x)
  | submitted => exact single ((s.submit_sends _).trans (State.resend_sends _ _))
  | channelReady hc => exact absurd hc hcode
  | corruptNak => exact single ((s.classify_sends _).trans (State.sendNak_sends _))
  | corruptDeferred => exact quiet ((s.classify_sends _).trans (State.armAck_sends _ _))
  | malformed => exact quiet ((s.classify_sends _).trans (State.raise_sends _ _))
  | @data a q p =>
    obtain ⟨fs, hfs, hcases⟩ := s.rxData_sends a q p
    refine ⟨fs, _, hfs, ?_, s.onData_out_length q p⟩
    rcases hcases with rfl | ⟨-, rfl⟩
    · exact Nat.zero_le 1
    · exact Nat.le_refl 1
  | @nak a =>
    obtain ⟨fs, hfs, hcases⟩ := (s.classify .nak).nakResend_sends a
    have hsent := ((s.classify_sends _).trans hfs).trans_quiet (State.ackThrough_sends _ a)
    rcases hcases with rfl | ⟨-, rfl⟩
    · exact quiet hsent
    · exact single hsent
  | ack => exact quiet ((s.classify_sends _).trans (State.ackThrough_sends _ _))
  | expired _ hgen => exact single (s.retxTimeout_sends hgen)
  | deferralOver => exact single (s.disarmAck_sends.trans (State.sendAck_sends _))

end Handlers

/-! ### ON_DATA returns payloads for the awaited sequence only -/

theorem State.onData_out_of_ne {s : State} (hl : s.cfg.legal = true) (hshape : s.Shaped) (hs : s.RingRegs)
    (hr : s.ReceiverInv) {q : Nat} (hq : q ≤ s.cfg.maxSeq) (hne : q ≠ s.expected) (p : Bytes) :
    (s.onData q p).out = [] := by
  cases hw : s.inWindow q with
  | false => rw [State.onData_outside p hw]
  | true =>
    cases ha : s.arrivedAt q with
    | true => rw [State.onData_arrived p hw ha]
    | false => rw [State.onData_outOfOrder hl hshape.arrived_length hs hr hq hw ha hne]

/-! ### The statements -/

/-- Settles O54: the outputs start empty, and the handler adds at most one frame and `W` payloads. -/
theorem oneFramePerStep : Obligations.OneFramePerStep := by
  intro s t h
  obtain ⟨-, ⟨-, rfl⟩ | ⟨rest, -, rfl⟩ | ⟨e, rest, -, rfl⟩⟩ := step_handles h
  · exact ⟨Nat.zero_le _, Nat.zero_le _⟩
  · exact ⟨Nat.zero_le _, Nat.zero_le _⟩
  by_cases hc : e.code = 2#3
  · rw [State.handle_channelReady hc]
    exact ⟨Nat.zero_le _, Nat.zero_le _⟩
  · obtain ⟨fs, out, hsent, hfs, hout⟩ := (s.beginStep rest).handle_sends hc
    have hframes : ((s.beginStep rest).handle e).finishStep.actions.filterMap Action.frame = fs.map _ := hsent.frames
    have hpayloads : ((s.beginStep rest).handle e).finishStep.actions.filterMap Action.payload = out :=
      hsent.payloads
    rw [length_filter_isTx, length_filter_isDeliver, hframes, hpayloads, List.length_map]
    exact ⟨hfs, hout⟩

/-- Settles O56: the flags follow the frames and payloads the handler adds; CHANNEL_READY adds none. -/
theorem flagTransitions : Obligations.FlagTransitions := by
  intro s t e rest hx h
  cases step_event_eq hx h
  by_cases hc : e.code = 2#3
  · rw [State.handle_channelReady hc]
    have hkeep : (s.beginStep rest).noteChannelReady.finishStep.nakSuppressed = s.nakSuppressed := rfl
    rw [hkeep]
    exact ⟨fun h0 h1 => absurd h1 (Bool.eq_false_iff.mp h0), fun h1 h0 => absurd h1 (Bool.eq_false_iff.mp h0),
      iff_of_true rfl (.inl hc)⟩
  · obtain ⟨fs, out, hsent, -, -⟩ := (s.beginStep rest).handle_sends hc
    generalize ((s.beginStep rest).handle e) = u at hsent ⊢
    have hframes : u.finishStep.actions.filterMap Action.frame = fs.map (encodeFrame s.cfg) := hsent.frames
    have hpayloads : u.finishStep.actions.filterMap Action.payload = out := hsent.payloads
    have hchan : u.finishStep.chanReady = (s.chanReady && fs.isEmpty) := hsent.chan_ready
    have hnak : u.finishStep.nakSuppressed = ((s.nakSuppressed || fs.any Frame.isNak) && out.isEmpty) :=
      hsent.suppressed
    rw [any_isTx, any_isDeliver, hframes, hpayloads, hchan, hnak]
    refine ⟨fun h0 h1 => ?rise, fun h1 h0 => ?fall, ?channel⟩
    case rise =>
      rw [h0, Bool.false_or, Bool.and_eq_true, List.any_eq_true] at h1
      obtain ⟨⟨f, hf, hfn⟩, -⟩ := h1
      obtain ⟨a, rfl⟩ : ∃ a, f = .nak a := by
        cases f with
        | nak a => exact ⟨a, rfl⟩
        | data | ack => cases hfn
      have hmem : encodeFrame s.cfg (.nak a) ∈ u.finishStep.actions.filterMap Action.frame :=
        hframes ▸ List.mem_map_of_mem hf
      obtain ⟨act, hact, hframe⟩ := List.mem_filterMap.mp hmem
      exact ⟨a, Action.frame_eq_some hframe ▸ hact⟩
    case fall =>
      rw [h1, Bool.true_or, Bool.true_and] at h0
      rw [h0]
      rfl
    case channel => simp [hc]

/-- Settles O31: a NAK is sent only for a sequence that is not `expected`, and for such a one ON_DATA returns no
payload. -/
theorem noNakWithDelivery : Obligations.NoNakWithDelivery := by
  intro s a q p hl hshape hs hr hq hacts
  obtain ⟨fs, hsent, hcases⟩ := s.rxData_sends a q p
  refine ⟨s.rxData a q p, rfl, ?_⟩
  rw [any_isTx, any_isDeliver, hsent.frames, hsent.payloads, hacts]
  rintro ⟨htx, hdel⟩
  rcases hcases with rfl | ⟨hne, -⟩
  · simp at htx
  · rw [State.onData_out_of_ne hl hshape hs hr hq hne p] at hdel
    simp at hdel

end Sys2Proof.Machine

/-! PROOF. What the engine does not look at (R36, R224, R262; logs 5, 8): ERR, the delays and the counter of resets
are blurred, each operation is shown to work on what is left, and the statements follow: ErrNeverInfluencesAStep,
DelaysNeverInfluenceAStep, UnwrittenBytesNeverSeen. -/

namespace Sys2Proof.Machine

/-! ### Blurring a state -/

/-- What a blur makes of ERR, of every delay and of the counter of resets. Blurring twice is blurring once, an error
raised on a blurred ERR blurs as on a sharp one, and the delays of a stagger stay a stagger. -/
structure Blur where
  err         : BitVec 4 → BitVec 4
  delay       : Nat → Nat
  epoch       : Nat → Nat
  err_or      : ∀ a m, err (err a ||| m) = err (a ||| m)
  delay_add   : ∀ a b, delay (a + b) = delay a + delay b
  delay_idem  : ∀ a, delay (delay a) = delay a
  epoch_idem  : ∀ n, epoch (epoch n) = epoch n

def Action.mapDelay (f : Nat → Nat) : Action → Action
  | .tx b => .tx b
  | .deliver p => .deliver p
  | .armRt q d => .armRt q (f d)
  | .cancelRt q => .cancelRt q
  | .armAck d => .armAck (f d)
  | .cancelAck => .cancelAck

def Config.mapDelays (f : Nat → Nat) (c : Config) : Config :=
  { c with tData := f c.tData, tAck := f c.tAck, tShort := f c.tShort, tLong := f c.tLong, tStep := f c.tStep }

/-- The state as seen through a blur. -/
def State.through (s : State) (v : Blur) : State :=
  { s with
    cfg := Config.mapDelays v.delay s.cfg
    rtDelay := s.rtDelay.map v.delay
    ackDelay := v.delay s.ackDelay
    err := v.err s.err
    actions := s.actions.map (Action.mapDelay v.delay)
    epoch := v.epoch s.epoch }

section Laws

variable (v : Blur)

theorem Blur.err_idem (a : BitVec 4) : v.err (v.err a) = v.err a := by
  simpa using v.err_or a 0#4

theorem Blur.delay_stagger (a b k : Nat) : v.delay (a + k * b) = v.delay a + k * v.delay b := by
  induction k with
  | zero => simp
  | succ k ih => rw [Nat.succ_mul, ← Nat.add_assoc, v.delay_add, ih, Nat.succ_mul, Nat.add_assoc]

theorem Blur.mapDelay_idem (a : Action) : (a.mapDelay v.delay).mapDelay v.delay = a.mapDelay v.delay := by
  cases a <;> simp [Action.mapDelay, v.delay_idem]

theorem State.through_through (s : State) : (s.through v).through v = s.through v := by
  simp [State.through, Config.mapDelays, v.delay_idem, v.err_idem, v.epoch_idem, Function.comp_def, v.mapDelay_idem]

end Laws

/-! ### Operations that commute with a blur -/

section Commuting

variable (v : Blur) (s : State)

theorem State.through_emit (a : Action) : (s.emit a).through v = (s.through v).emit (a.mapDelay v.delay) := by
  simp [State.through, State.emit]

theorem State.through_classify (c : FrameClass) : (s.classify c).through v = (s.through v).classify c := rfl

theorem State.through_submit (p : Bytes) : (s.submit p).through v = (s.through v).submit p := rfl

theorem State.through_store (q : Nat) (p : Bytes) : (s.store q p).through v = (s.through v).store q p := rfl

theorem State.through_advance : s.advance.through v = (s.through v).advance := rfl

theorem State.through_disarmRt (q : Nat) : (s.disarmRt q).through v = (s.through v).disarmRt q := rfl

theorem State.through_noteChannelReady : s.noteChannelReady.through v = (s.through v).noteChannelReady := rfl

theorem State.through_armAck (d : Nat) : (s.armAck d).through v = (s.through v).armAck (v.delay d) :=
  State.through_emit v _ _

theorem State.through_armRt (q d : Nat) : (s.armRt q d).through v = (s.through v).armRt q (v.delay d) := by
  rw [State.armRt, State.through_emit, State.armRt]
  simp [State.through, Action.mapDelay, List.map_set]
  rfl

theorem State.through_cancelRt (q : Nat) : (s.cancelRt q).through v = (s.through v).cancelRt q := by
  unfold State.cancelRt
  rw [State.through_disarmRt, apply_ite (State.through · v), State.through_emit]
  rfl

theorem State.through_retire : s.retire.through v = (s.through v).retire :=
  congrArg (fun u : State => { u with
    bufferedCount := s.bufferedCount - 1, ackExpected := inc s.cfg s.ackExpected })
    (State.through_cancelRt v s s.ackExpected)

theorem State.through_ackThrough (a : Nat) : (s.ackThrough a).through v = (s.through v).ackThrough a := by
  have hloop (fuel : Nat) : (State.retireWhile fuel a s).through v = State.retireWhile fuel a (s.through v) := by
    induction fuel generalizing s with
    | zero => rfl
    | succ fuel ih =>
      rw [State.retireWhile, State.retireWhile, apply_ite (State.through · v), ih, State.through_retire]
      rfl
  exact hloop s.cfg.r

theorem State.through_deliver (x : Bytes) : (s.deliver x).through v = (s.through v).deliver x := by
  rw [State.deliver, State.through_armAck]
  exact congrArg (fun u : State => u.allowNak.armAck (v.delay s.cfg.tAck)) (s.through_emit v (.deliver x))

theorem State.through_deliveries (out : List Bytes) :
    (out.foldl State.deliver s).through v = out.foldl State.deliver (s.through v) := by
  induction out generalizing s with
  | nil => rfl
  | cons x out ih => rw [List.foldl_cons, ih, State.through_deliver, List.foldl_cons]

/-- TRANSMIT commutes where the blur does not show in the frame. -/
theorem State.through_transmit {k : FrameKind} {q : Nat} (h : (s.through v).frameOf k q = s.frameOf k q) :
    (s.transmit k q).through v = (s.through v).transmit k q := by
  rw [State.transmit_eq, State.transmit_eq, h]
  cases ha : s.ackArmed <;> simp [State.through, Action.mapDelay, ha] <;> rfl

theorem State.through_sendAck : s.sendAck.through v = (s.through v).sendAck := s.through_transmit v rfl

theorem State.through_sendNak : s.sendNak.through v = (s.through v).sendNak := s.through_transmit v rfl

theorem State.through_nakOrDefer (q : Nat) : (s.nakOrDefer q).through v = (s.through v).nakOrDefer q := by
  unfold State.nakOrDefer
  rw [apply_ite (State.through · v), State.through_sendNak, State.through_armAck]
  rfl

theorem State.through_rxCorrupt (claimed : Option Byte) :
    (s.rxCorrupt claimed).through v = (s.through v).rxCorrupt claimed := by
  unfold State.rxCorrupt
  dsimp only
  rw [apply_ite (State.through · v), State.through_sendNak, State.through_armAck]
  rfl

theorem State.through_armSuccessor (q : Nat) : (s.armSuccessor q).through v = (s.through v).armSuccessor q := by
  unfold State.armSuccessor
  rw [apply_ite (State.through · v), State.through_armRt]
  rfl

theorem State.through_stagger (q : Nat) (ds : List Nat) (k : Nat) :
    (State.stagger q ds k s).through v = State.stagger q ds k (s.through v) := by
  induction ds generalizing s k with
  | nil => rfl
  | cons d ds ih =>
    rw [State.stagger, State.stagger]
    rw [apply_ite (State.through · v), ih, ih, State.through_armRt, Blur.delay_stagger]
    rfl

end Commuting

/-! ### Reads of a buffer through a blur -/

section Reads

variable {v : Blur} {s t : State}

theorem State.through_memRead_of_epoch (h : ∀ n, v.epoch n = n) (s : State) (sp : Space) (i : Nat) :
    (s.through v).memRead sp i = s.memRead sp i := by
  have hmem : (s.through v).mem sp = s.mem sp := by cases sp <;> rfl
  exact State.memRead_congr hmem (h s.epoch) rfl i

/-- A read of a written slot never reaches the free bytes (log 5). -/
theorem State.through_memRead_of_written {sp : Space} {i : Nat} (h : s.written sp i) :
    (s.through v).memRead sp i = s.memRead sp i := by
  have hmem : (s.through v).mem sp = s.mem sp := by cases sp <;> rfl
  refine List.map_congr_left fun k hk => ?_
  obtain ⟨b, hb⟩ := Option.isSome_iff_exists.mp (h k (List.mem_range.mp hk))
  show (((s.through v).mem sp).read _).getD _ = ((s.mem sp).read _).getD _
  rw [hmem, show (s.through v).cfg.fixedLen = s.cfg.fixedLen from rfl, hb]
  rfl

/-- Every slot an event may read looks the same through the blur: it leaves the counter of resets sharp, or the
buffers are written there. -/
def Blur.Clear (v : Blur) (s : State) : Prop :=
  (∀ n, v.epoch n = n) ∨ (s.cfg.legal = true ∧ s.OutboxInv ∧ s.Settled)

theorem Blur.Clear.congr (h : v.Clear s) (hs : s.SameSides t) : v.Clear t :=
  h.imp_right fun ⟨hl, ho, hr⟩ =>
    ⟨State.cfg_eq_of_senderSide hs.sender ▸ hl, ho.congr hs.sender, hr.congr hs.receiver⟩

theorem Blur.Clear.frameOf (h : v.Clear s) {q : Nat} (hq : q ≤ s.cfg.maxSeq) (hout : s.outstanding q = true) :
    (s.through v).frameOf .data q = s.frameOf .data q := by
  have hread : (s.through v).memRead .outbox (slot s.cfg q) = s.memRead .outbox (slot s.cfg q) := by
    rcases h with hv | ⟨-, ho, -⟩
    · exact State.through_memRead_of_epoch hv s _ _
    · exact State.through_memRead_of_written (ho.outstanding q hq hout)
  exact congrArg (Frame.data s.ackval q) hread

/-- The slots marked arrived look the same through the blur. -/
def Blur.ClearArrived (v : Blur) (s : State) : Prop :=
  ∀ q, s.arrivedAt q = true →
    (s.through v).memRead .reassembly (slot s.cfg q) = s.memRead .reassembly (slot s.cfg q)

theorem Blur.Clear.store (h : v.Clear s) (q : Nat) {p : Bytes} (hp : p.length = s.cfg.fixedLen) :
    v.ClearArrived (s.store q p) := by
  intro u hu
  rcases h with hv | ⟨hl, -, hr⟩
  · exact State.through_memRead_of_epoch hv _ _ _
  · exact State.through_memRead_of_written ((hr.buffer.store hl hr.arrived_length q hp).arrived _ (slot_lt hl u) hu)

theorem Blur.ClearArrived.advance (h : v.ClearArrived s) : v.ClearArrived s.advance := by
  intro q hq
  have hold : s.arrivedAt q = true := by
    rw [State.arrivedAt, State.advance_arrived, State.advance_cfg, List.getD_eq_getElem?_getD,
      List.getElem?_set] at hq
    rw [State.arrivedAt, List.getD_eq_getElem?_getD]
    split_ifs at hq
    · simp at hq
    · simp at hq
    · exact hq
  exact h q hold

theorem Blur.ClearArrived.drain (h : v.ClearArrived s) (fuel : Nat) :
    State.drain fuel (s.through v) = ((State.drain fuel s).1.through v, (State.drain fuel s).2) := by
  induction fuel generalizing s with
  | zero => rfl
  | succ fuel ih =>
    rw [State.drain, State.drain, show (s.through v).arrivedAt (s.through v).expected = s.arrivedAt s.expected from rfl]
    split_ifs with ha
    · rw [← State.through_advance, ih h.advance]
      exact congrArg (fun x => ((State.drain fuel s.advance).1.through v, x :: (State.drain fuel s.advance).2))
        (h s.expected ha)
    · rfl

/-- ON_DATA commutes, and returns and answers the same (R170). -/
theorem State.through_onData (h : v.Clear s) (q : Nat) {p : Bytes} (hp : p.length = s.cfg.fixedLen) :
    (s.through v).onData q p = { s.onData q p with state := (s.onData q p).state.through v } := by
  have hdrain := (h.store q hp).drain s.cfg.w
  rw [State.through_store] at hdrain
  unfold State.onData
  rw [show (s.through v).inWindow q = s.inWindow q from rfl, show (s.through v).arrivedAt q = s.arrivedAt q from rfl,
    show (s.through v).cfg.w = s.cfg.w from rfl, hdrain]
  split_ifs <;> rfl

end Reads

/-! ### The handlers -/

section Handlers

variable {v : Blur} {s t u : State}

/-- What commutes with a blur is the same through it. -/
theorem State.through_eq_of_commutes (h : t.through v = u) : t.through v = u.through v := by
  rw [← h, State.through_through]

theorem State.through_raise (b : ErrBit) : (s.raise b).through v = ((s.through v).raise b).through v := by
  have herr := v.err_or s.err (1#4 <<< b.index)
  simp only [State.through, State.raise, Config.mapDelays, v.delay_idem, v.epoch_idem, herr, List.map_map,
    Function.comp_def, v.mapDelay_idem]

theorem State.through_resend (s : State) {q : Nat} (h : (s.through v).frameOf .data q = s.frameOf .data q) :
    (s.resend q).through v = (s.through v).resend q := by
  rw [State.resend, State.through_armRt, State.through_transmit v s h]
  rfl

theorem State.through_upperReady (s : State) (p : Bytes) :
    (s.upperReady p).through v = ((s.through v).upperReady p).through v := by
  unfold State.upperReady
  rw [show (s.through v).cfg.fixedLen = s.cfg.fixedLen from rfl,
    show (s.through v).admissible = s.admissible from rfl]
  split_ifs with hlen
  · exact State.through_raise .evcode
  · exact State.through_raise .adm
  · have hframe : ((s.submit p).through v).frameOf .data s.nextToSend = (s.submit p).frameOf .data s.nextToSend := by
      rw [State.submit_frameOf (not_not.mp hlen), State.through_submit]
      exact State.submit_frameOf (s := s.through v) (not_not.mp hlen)
    exact State.through_eq_of_commutes (State.through_resend _ hframe)

theorem State.through_nakResend (h : v.Clear s) (a : Nat) : (s.nakResend a).through v = (s.through v).nakResend a := by
  cases hout : s.outstanding (inc s.cfg a) with
  | true =>
    rw [State.nakResend_of_outstanding s hout, State.nakResend_of_outstanding (s.through v) hout]
    exact State.through_resend s (h.frameOf (inc_le a) hout)
  | false => rw [State.nakResend_of_not_outstanding s hout, State.nakResend_of_not_outstanding (s.through v) hout]

theorem State.through_rxData (h : v.Clear s) (a q : Nat) {p : Bytes} (hp : p.length = s.cfg.fixedLen) :
    (s.rxData a q p).through v = (s.through v).rxData a q p := by
  have hclear := h.congr (s.nakOrDefer_sides q)
  have hp' : p.length = (s.nakOrDefer q).cfg.fixedLen := by rw [State.nakOrDefer_cfg, hp]
  unfold State.rxData
  dsimp only
  rw [State.through_ackThrough, State.through_deliveries, State.through_classify, ← State.through_nakOrDefer,
    State.through_onData hclear q hp']

theorem State.through_frameReceived (h : v.Clear s) (b : Bytes) :
    (s.frameReceived b).through v = ((s.through v).frameReceived b).through v := by
  unfold State.frameReceived
  rw [show decodeFrame (s.through v).cfg b = decodeFrame s.cfg b from rfl]
  cases hd : decodeFrame s.cfg b with
  | corruptFrame => exact State.through_eq_of_commutes (s.through_rxCorrupt v _)
  | malformedFrame => exact State.through_raise (s := s.classify .malformed) .malformed
  | data a q p =>
    exact State.through_eq_of_commutes (State.through_rxData h a q (decodeFrame_data_fields hd).2.2)
  | nak a =>
    have hresend := State.through_nakResend (h.congr (s.classify_sides .nak)) a
    have hthrough := ((s.classify .nak).nakResend a).through_ackThrough v a
    rw [hresend] at hthrough
    exact State.through_eq_of_commutes hthrough
  | ack a => exact State.through_eq_of_commutes ((s.classify .ack).through_ackThrough v a)

theorem State.through_retxTimeout (h : v.Clear s) (q : Nat) :
    (s.retxTimeout q).through v = ((s.through v).retxTimeout q).through v := by
  unfold State.retxTimeout
  rw [show (s.through v).genuineRetx q = s.genuineRetx q from rfl]
  split_ifs with hgen
  · obtain ⟨⟨hq, hout⟩, -⟩ : (q ≤ s.cfg.maxSeq ∧ s.outstanding q = true) ∧ s.armedAt q = true := by
      simpa [State.genuineRetx] using hgen
    refine State.through_eq_of_commutes ?_
    rw [State.through_stagger, State.through_armSuccessor,
      State.through_resend _ ((h.congr (s.disarmRt_sides q)).frameOf (q := q) hq hout)]
    rfl
  · exact State.through_raise .spurious

theorem State.through_ackTimeout (s : State) : s.ackTimeout.through v = (s.through v).ackTimeout.through v := by
  unfold State.ackTimeout
  rw [show (s.through v).ackArmed = s.ackArmed from rfl]
  split_ifs
  · exact State.through_eq_of_commutes (s.disarmAck.through_sendAck v)
  · exact State.through_raise .spurious

/-- A handler works on what a clear blur leaves. Case `h_k` is event code `k`, the last the reserved codes
(R201). -/
theorem State.through_handle (h : v.Clear s) (e : Event) :
    (s.handle e).through v = ((s.through v).handle e).through v := by
  unfold State.handle
  split
  case h_1 => exact s.through_upperReady _
  case h_2 => exact State.through_eq_of_commutes (s.through_noteChannelReady v)
  case h_3 => exact State.through_frameReceived h _
  case h_4 => exact State.through_retxTimeout h _
  case h_5 => exact s.through_ackTimeout
  case h_6 => exact State.through_raise .evcode

end Handlers

/-! ### The step -/

section Steps

variable {v : Blur} {s t : State}

/-- What a step answers, as seen through a blur. -/
def Blur.outcome (v : Blur) : Host.Outcome State Fault Refusal → Host.Outcome State Fault Refusal
  | .next s => .next (s.through v)
  | .fault r => .fault r
  | .refused r => .refused r

theorem Blur.next_of_outcome {o : Host.Outcome State Fault Refusal} {u : State} (h : v.outcome o = .next u) :
    ∃ t, o = .next t ∧ t.through v = u := by
  cases o with
  | next t => exact ⟨t, rfl, Host.Outcome.next.inj h⟩
  | fault r => cases h
  | refused r => cases h

/-- RESET looks at the counter of resets only, for the unspecified delays (R41; log 6). -/
theorem State.through_applyReset (hv : ∀ n, v.epoch n = n) (s : State) :
    s.applyReset.through v = (s.through v).applyReset.through v := by
  simp [State.through, State.applyReset, Config.mapDelays, hv, v.delay_idem, Config.r]

/-- A step answers the same through a clear blur, unless it is a RESET and the counter of resets is blurred. -/
theorem step_through (h : v.Clear s) (hreset : (∀ n, v.epoch n = n) ∨ ∀ rest, s.inputs ≠ .reset :: rest) :
    v.outcome (step (s.through v)) = v.outcome (step s) := by
  have hfetch : (s.through v).fetch = s.fetch := rfl
  rw [step, step, hfetch]
  rcases State.fetch_cases (s := s) with ⟨-, -, hf⟩ | ⟨x, rest, i, -, hx, hd, hf⟩ | ⟨r, hf⟩ <;> rw [hf]
  · exact congrArg Host.Outcome.next (s.idle.through_through v)
  · cases x with
    | reset =>
      cases hd
      have hv := hreset.resolve_right fun hno => hno rest hx
      have hsame := State.through_applyReset hv (s.beginStep rest)
      exact congrArg (fun u : State => Host.Outcome.next u.finishStep) hsame.symm
    | event e =>
      have hs : exec i (s.beginStep rest) = .next ((s.beginStep rest).handle e) := handle_eq_exec hd
      have hs' : exec i ((s.through v).beginStep rest) = .next (((s.through v).beginStep rest).handle e) :=
        handle_eq_exec hd
      have hclear : v.Clear (s.beginStep rest) := h.congr ⟨rfl, rfl⟩
      have hsame := State.through_handle hclear e
      dsimp only
      rw [hs, hs']
      exact congrArg (fun u : State => Host.Outcome.next u.finishStep) hsame.symm

end Steps

/-! ### Three blurs -/

/-- ERR becomes `e`. -/
def Blur.ofErr (e : BitVec 4) : Blur where
  err _ := e
  delay := id
  epoch := id
  err_or _ _ := rfl
  delay_add _ _ := rfl
  delay_idem _ := rfl
  epoch_idem _ := rfl

/-- Every delay becomes 0. -/
def Blur.ofDelays : Blur where
  err := id
  delay _ := 0
  epoch := id
  err_or _ _ := rfl
  delay_add _ _ := rfl
  delay_idem _ := rfl
  epoch_idem _ := rfl

/-- The counter of resets becomes `n`. -/
def Blur.ofEpoch (n : Nat) : Blur where
  err := id
  delay := id
  epoch _ := n
  err_or _ _ := rfl
  delay_add _ _ := rfl
  delay_idem _ := rfl
  epoch_idem _ := rfl

section Instances

variable (s : State)

theorem Action.mapDelay_id : Action.mapDelay id = id := by
  funext a
  cases a <;> rfl

theorem Action.mapDelay_zero : Action.mapDelay (fun _ => 0) = Action.forgetDelay := by
  funext a
  cases a <;> rfl

theorem State.through_ofErr (e : BitVec 4) : s.through (.ofErr e) = { s with err := e } := by
  simp [State.through, Blur.ofErr, Config.mapDelays, Action.mapDelay_id]

theorem State.through_ofEpoch (n : Nat) : s.through (.ofEpoch n) = { s with epoch := n } := by
  simp [State.through, Blur.ofEpoch, Config.mapDelays, Action.mapDelay_id]

theorem State.through_ofDelays : s.through .ofDelays = s.forgetDelays := by
  simp [State.through, Blur.ofDelays, Config.mapDelays, Action.mapDelay_zero, State.forgetDelays]

end Instances

/-! ### The statements -/

/-- Settles O51: blurring ERR to `e` is the change the statement speaks of, and a step answers the same through
the blur. -/
theorem errNeverInfluencesAStep : Obligations.ErrNeverInfluencesAStep := by
  intro s t e h
  have hstep := step_through (v := .ofErr e) (s := s) (.inl fun _ => rfl) (.inl fun _ => rfl)
  rw [h, State.through_ofErr] at hstep
  obtain ⟨t', ht', hsame⟩ := Blur.next_of_outcome hstep
  rw [State.through_ofErr, State.through_ofErr] at hsame
  exact ⟨t'.err, ht'.trans (congrArg (fun u : State => Host.Outcome.next { u with err := t'.err }) hsame)⟩

/-- Settles O52: two states equal but for delays are one state through the blur. -/
theorem delaysNeverInfluenceAStep : Obligations.DelaysNeverInfluenceAStep := by
  intro s s' t hs h
  have hclear (u : State) : Blur.ofDelays.outcome (step (u.through .ofDelays)) = Blur.ofDelays.outcome (step u) :=
    step_through (.inl fun _ => rfl) (.inl fun _ => rfl)
  have hstep : Blur.ofDelays.outcome (step s') = .next (t.through .ofDelays) := by
    rw [← hclear s', State.through_ofDelays, ← hs, ← State.through_ofDelays, hclear s, h]
    rfl
  obtain ⟨t', ht', hsame⟩ := Blur.next_of_outcome hstep
  rw [State.through_ofDelays, State.through_ofDelays] at hsame
  exact ⟨t', ht', hsame.symm⟩

/-- Settles O53: under the invariant an event reads written slots only, so blurring the counter is clear. -/
theorem unwrittenBytesNeverSeen : Obligations.UnwrittenBytesNeverSeen := by
  intro s t e rest n hs hx h
  have hclear : (Blur.ofEpoch n).Clear s := .inr ⟨hs.legal, hs.outboxInv, hs.settled⟩
  have hstep := step_through hclear (.inr fun rest' => by simp [hx])
  rw [h, State.through_ofEpoch] at hstep
  obtain ⟨t', ht', hsame⟩ := Blur.next_of_outcome hstep
  have hepoch : t'.epoch = n := by
    have hx' : ({ s with epoch := n } : State).inputs = .event e :: rest := hx
    rw [step_event_eq hx' ht']
    exact State.handle_epoch _ e
  rw [State.through_ofEpoch, State.through_ofEpoch, ← hepoch] at hsame
  rw [← hepoch] at ht' ⊢
  exact ht'.trans (congrArg Host.Outcome.next hsame)

end Sys2Proof.Machine

/-! PROOF. A link's moves, said once (R263; log 17): which end each reaches and how, what an engine's step leaves of
the stream, and the statement that follows: LinkStreamsStayEmpty. -/

namespace Sys2Proof.Machine

/-! ### The stream over a handler -/

section Stream

variable (s : State)

@[simp] theorem State.nakOrDefer_inputs (q : Nat) : (s.nakOrDefer q).inputs = s.inputs := by
  rcases s.nakOrDefer_cases q with ⟨-, -, h⟩ | ⟨-, h⟩ <;> simp [h, State.sendNak]

@[simp] theorem State.nakResend_inputs (a : Nat) : (s.nakResend a).inputs = s.inputs := by
  unfold State.nakResend
  split <;> simp

theorem State.retxTimeout_inputs_of_genuine {q : Nat} (h : s.genuineRetx q = true) :
    (s.retxTimeout q).inputs = s.inputs := by
  rw [State.retxTimeout_of_genuine h, State.armAll_frame]
  exact State.transmit_inputs _ _ _

/-- A handler takes no event from the stream and puts none there (R226). -/
@[simp] theorem State.handle_inputs (e : Event) : (s.handle e).inputs = s.inputs := by
  have h := s.handling e
  generalize s.handle e = t at h ⊢
  cases h with
  | recorded => rfl
  | submitted => simp
  | channelReady => rfl
  | corruptNak => exact State.transmit_inputs _ _ _
  | corruptDeferred => rfl
  | malformed => rfl
  | data => simp [State.rxData, State.deliver_foldl]
  | nak => simp [State.rxNak]
  | ack => simp [State.rxAck]
  | expired _ hgen => exact s.retxTimeout_inputs_of_genuine hgen
  | deferralOver => exact State.transmit_inputs _ _ _

/-- What an engine does with an event presented alone. -/
theorem State.react_eq {s t : State} {e : Event} (h : s.react e = .next t) :
    t = (({ s with inputs := [.event e] } : State).beginStep [] |>.handle e).finishStep :=
  step_event_eq (s := { s with inputs := [.event e] }) rfl h

end Stream

/-! ### The moves -/

section Moves

variable {l l' : Link}

/-- All a move can do (R263): a frame in flight is lost, corrupted or presented, a packet is handed over and
offered, or another event is presented. -/
theorem Link.move_cases {m : LinkMove} (h : l.move m = some l') : ∃ d,
    (∃ k, l' = l.setInbound d ((l.near d).inbound.eraseIdx k)) ∨
    (∃ k b, decodeFrame (l.near d).engine.cfg b = .corruptFrame ∧
      l' = l.setInbound d ((l.near d).inbound.set k b)) ∨
    (∃ k f, (l.near d).inbound[k]? = some f ∧ l.order.allows k = true ∧
      (l.setInbound d ((l.near d).inbound.eraseIdx k)).engineStep d ⟨3#3, 0#8, f⟩ = some l') ∨
    (∃ p rest, (l.near d).engine.admEnable = true ∧ (l.near d).engine.cfg.packet p = true ∧
      (l.handOver d p rest).engineStep d ⟨1#3, 0#8, p⟩ = some l') ∨
    (∃ e, e.code ≠ 1#3 ∧ e.code ≠ 3#3 ∧ l.engineStep d e = some l') := by
  cases m with
  | present d k =>
    simp only [Link.move] at h
    split at h
    · split_ifs at h with hallow
      exact ⟨d, .inr (.inr (.inl ⟨k, _, ‹_›, hallow, h⟩))⟩
    · cases h
  | lose d k =>
    simp only [Link.move] at h
    split_ifs at h
    cases h
    exact ⟨d, .inl ⟨k, rfl⟩⟩
  | corrupt d k b =>
    simp only [Link.move] at h
    split_ifs at h with hok
    cases h
    exact ⟨d, .inr (.inl ⟨k, b, hok.2.1, rfl⟩)⟩
  | ready d => exact ⟨d, .inr (.inr (.inr (.inr ⟨_, by decide, by decide, h⟩)))⟩
  | offer d =>
    simp only [Link.move] at h
    split at h
    · split_ifs at h with hok
      rw [Bool.and_eq_true] at hok
      exact ⟨d, .inr (.inr (.inr (.inl ⟨_, _, hok.1, hok.2, h⟩)))⟩
    · cases h
  | retxExpiry d q =>
    simp only [Link.move] at h
    split_ifs at h
    exact ⟨d, .inr (.inr (.inr (.inr ⟨_, by simp, by simp, h⟩)))⟩
  | ackExpiry d =>
    simp only [Link.move] at h
    split_ifs at h
    exact ⟨d, .inr (.inr (.inr (.inr ⟨_, by simp, by simp, h⟩)))⟩

/-- No event is pending in either serialiser. -/
def Link.NoEvent (l : Link) : Prop := l.a.engine.inputs = [] ∧ l.b.engine.inputs = []

theorem Link.noEvent_iff (l : Link) (d : Side) :
    l.NoEvent ↔ (l.near d).engine.inputs = [] ∧ (l.far d).engine.inputs = [] := by
  cases d with
  | a => rfl
  | b => exact and_comm

theorem Link.NoEvent.setInbound (h : l.NoEvent) (d : Side) (fs : List Bytes) : (l.setInbound d fs).NoEvent := by
  rw [Link.noEvent_iff _ d, Link.near_setInbound, Link.far_setInbound]
  exact (l.noEvent_iff d).mp h

theorem Link.NoEvent.handOver (h : l.NoEvent) (d : Side) (p : Bytes) (rest : List Bytes) :
    (l.handOver d p rest).NoEvent := by
  rw [Link.noEvent_iff _ d, Link.near_handOver, Link.far_handOver]
  exact (l.noEvent_iff d).mp h

/-- The engine takes the one event it is presented. -/
theorem Link.NoEvent.engineStep (h : l.NoEvent) {d : Side} {e : Event} (hm : l.engineStep d e = some l') :
    l'.NoEvent := by
  obtain ⟨t, ht, hnear, hfar, -⟩ := Link.engineStep_cases hm
  have hf := ((l.noEvent_iff d).mp h).2
  rw [Link.noEvent_iff _ d, hnear, hfar]
  refine ⟨?_, hf⟩
  rw [State.react_eq ht, State.finishStep_inputs, State.handle_inputs, State.beginStep_inputs]

theorem Link.NoEvent.move (h : l.NoEvent) {m : LinkMove} (hm : l.move m = some l') : l'.NoEvent := by
  obtain ⟨d, ⟨k, rfl⟩ | ⟨k, b, -, rfl⟩ | ⟨k, f, -, -, hs⟩ | ⟨p, rest, -, -, hs⟩ | ⟨e, -, -, hs⟩⟩ :=
    Link.move_cases hm
  · exact h.setInbound d _
  · exact h.setInbound d _
  · exact (h.setInbound d _).engineStep hs
  · exact (h.handOver d p rest).engineStep hs
  · exact h.engineStep hs

end Moves

/-- Settles O60: fresh ends hold no event, and an engine takes the one its move presents. -/
theorem linkStreamsStayEmpty : Obligations.LinkStreamsStayEmpty :=
  ⟨fun _ _ _ n n' ps ps' hl hl' hp => ⟨⟨End.start_fresh hl n ps, End.start_fresh hl' n' ps'⟩, hp⟩,
    fun _ h => ⟨h.ends.1.no_event, h.ends.2.no_event⟩,
    fun _ _ _ h hm => Link.NoEvent.move h hm⟩

end Sys2Proof.Machine

/-! PROOF. One engine against the packets of a link (R15, R21 to R29): sequences counted without wrapping, what the
sender holds of the packets submitted and the receiver of those it is sent, and how SUBMIT, ACK_THROUGH and ON_DATA
move both. -/

namespace Sys2Proof.Machine

/-! ### Sequences counted without wrapping -/

section Counting

variable {c : Config} {a k : Nat}

theorem mod_r_le (c : Config) (k : Nat) : k % c.r ≤ c.maxSeq := Nat.le_of_lt_succ (Nat.mod_lt k Config.r_pos)

/-- The slot of the ring value that counts as `k` (R131). -/
theorem slot_mod (hl : c.legal = true) (k : Nat) : slot c (k % c.r) = k % c.w := by
  simpa [ahead] using slot_ahead hl 0 k

/-- The ring distance of two counts (R133). -/
theorem forward_mod (c : Config) (h : a ≤ k) : forward c (a % c.r) (k % c.r) = (k - a) % c.r := by
  obtain ⟨d, rfl⟩ := Nat.exists_eq_add_of_le h
  have ha : a % c.r < c.r := Nat.mod_lt a Config.r_pos
  have hsum : (a + d) % c.r + c.r - a % c.r + a % c.r ≡ d + a % c.r [MOD c.r] := by
    rw [show (a + d) % c.r + c.r - a % c.r + a % c.r = (a + d) % c.r + c.r by omega]
    calc (a + d) % c.r + c.r ≡ (a + d) % c.r [MOD c.r] := Nat.add_mod_right ..
      _ ≡ d + a [MOD c.r] := by rw [Nat.add_comm d a]; exact Nat.mod_modEq ..
      _ ≡ d + a % c.r [MOD c.r] := (Nat.mod_modEq a c.r).symm.add_left d
  rw [Nat.add_sub_cancel_left]
  exact hsum.add_right_cancel'

theorem forward_mod_of_lt (h : a ≤ k) (hk : k - a < c.r) : forward c (a % c.r) (k % c.r) = k - a :=
  (forward_mod c h).trans (Nat.mod_eq_of_lt hk)

/-- Counts fewer than `W` apart have slots of their own (R131). -/
theorem mod_w_inj {w b i j : Nat} (hi : b ≤ i) (hiw : i < b + w) (hj : b ≤ j) (hjw : j < b + w)
    (h : i % w = j % w) : i = j := by
  obtain ⟨m, rfl⟩ := Nat.exists_eq_add_of_le hi
  obtain ⟨n, rfl⟩ := Nat.exists_eq_add_of_le hj
  exact congrArg (b + ·) ((Nat.ModEq.add_left_cancel' b h).eq_of_lt_of_lt (by omega) (by omega))

theorem r_eq_two_w (hl : c.legal = true) : c.r = c.w + c.w := by
  rw [← Config.two_w hl, Nat.two_mul]

end Counting

/-! ### The sender and the packets submitted -/

/-- The sender has the packets `sent` behind it, of which the peer is known to have the first `acked`; the others
are in the outbox (R15, R20 to R24). -/
structure State.Holds (s : State) (sent : List Bytes) (acked : Nat) : Prop where
  legal        : s.cfg.legal = true
  ack_expected : s.ackExpected = acked % s.cfg.r
  next_to_send : s.nextToSend = sent.length % s.cfg.r
  count        : sent.length = acked + s.bufferedCount
  bound        : s.bufferedCount ≤ s.cfg.w
  packets      : ∀ k, acked ≤ k → k < sent.length → sent[k]? = some (s.memRead .outbox (k % s.cfg.w))

section Sender

variable {s t : State} {sent : List Bytes} {acked : Nat} {p : Bytes}

theorem State.Holds.congr (h : s.Holds sent acked) (hs : t.senderSide = s.senderSide) : t.Holds sent acked := by
  have hcfg := State.cfg_eq_of_senderSide hs
  obtain ⟨hl, hack, hnext, hcount, hbound, hpackets⟩ := h
  have hw : t.senderWindow = s.senderWindow := congrArg SenderSide.window hs
  have hbc : t.bufferedCount = s.bufferedCount := congrArg SenderWindow.bufferedCount hw
  refine ⟨hcfg ▸ hl, ?_, ?_, hbc ▸ hcount, ?_, fun k hk hlt => ?_⟩
  · rw [hcfg, ← hack]; exact congrArg SenderWindow.ackExpected hw
  · rw [hcfg, ← hnext]; exact congrArg SenderWindow.nextToSend hw
  · rw [hcfg, hbc]; exact hbound
  · rw [hcfg, State.memRead_outbox_of_senderSide hs]; exact hpackets k hk hlt

theorem State.Holds.consistent (h : s.Holds sent acked) : s.senderWindow.Consistent where
  legal := h.legal
  ack_expected := h.ack_expected.trans_le (mod_r_le _ _)
  next_to_send := h.next_to_send.trans_le (mod_r_le _ _)
  count := by
    have hlt := h.bound.trans_lt (Config.w_lt_r h.legal)
    have hcount := h.count
    show s.bufferedCount = forward s.cfg s.ackExpected s.nextToSend
    rw [h.ack_expected, h.next_to_send, forward_mod_of_lt (by omega) (by omega)]
    omega
  bound := h.bound

/-- An outstanding sequence counts as a packet not yet acknowledged, and its DATA frame carries that packet (R15,
R157). -/
theorem State.Holds.outstanding (h : s.Holds sent acked) {q : Nat} (hq : q ≤ s.cfg.maxSeq)
    (hout : s.outstanding q = true) : ∃ k p, acked ≤ k ∧ sent[k]? = some p ∧ q = k % s.cfg.r ∧
      s.frameOf .data q = .data s.ackval (k % s.cfg.r) p := by
  have hack : s.ackExpected ≤ s.cfg.maxSeq := h.consistent.ack_expected
  have hcount := h.count
  obtain ⟨d, hd⟩ : ∃ d, forward s.cfg s.ackExpected q = d := ⟨_, rfl⟩
  have hlt := (State.outstanding_iff h.consistent hq).mp hout
  have hqk : q = (acked + d) % s.cfg.r := by
    rw [← ahead_forward hack hq, hd, ahead, h.ack_expected, Nat.mod_add_mod]
  refine ⟨acked + d, _, Nat.le_add_right _ _, h.packets _ (Nat.le_add_right _ _) (by omega), hqk, ?_⟩
  rw [hqk, State.frameOf, slot_mod h.legal]

/-- A packet is submitted behind those held (R155). -/
theorem State.Holds.submit (h : s.Holds sent acked) (hroom : s.bufferedCount < s.cfg.w)
    (hp : p.length = s.cfg.fixedLen) : (s.submit p).Holds (sent ++ [p]) acked := by
  have hslot : slot s.cfg s.nextToSend = sent.length % s.cfg.w := by rw [h.next_to_send, slot_mod h.legal]
  have hcount := h.count
  refine ⟨h.legal, h.ack_expected, ?_, ?_, hroom, fun k hk hlt => ?_⟩
  · rw [State.submit_nextToSend, h.next_to_send, List.length_append, inc, Nat.mod_add_mod]
    rfl
  · rw [List.length_append, State.submit_bufferedCount, List.length_singleton]
    omega
  · rw [List.length_append, List.length_singleton] at hlt
    show (sent ++ [p])[k]? = some ((s.submit p).memRead .outbox (k % s.cfg.w))
    rcases Nat.lt_or_eq_of_le (Nat.le_of_lt_succ hlt) with hk' | rfl
    · have hother : slot s.cfg s.nextToSend ≠ k % s.cfg.w := fun he => by
        rw [hslot] at he
        exact hk'.ne' (mod_w_inj (b := acked) (by omega) (by omega) hk (by omega) he)
      rw [List.getElem?_append_left hk', h.packets k hk hk']
      exact congrArg some (s.memRead_memWrite_other .outbox hother hp).symm
    · rw [List.getElem?_append_right (Nat.le_refl _), Nat.sub_self, ← hslot, State.memRead_submit hp]
      rfl

/-- The acknowledgment value of a receiver that awaits the count `e`. -/
def ackOf (c : Config) (e : Nat) : Nat := (e + c.maxSeq) % c.r

theorem ackOf_le (c : Config) (e : Nat) : ackOf c e ≤ c.maxSeq := mod_r_le c _

/-- It is the sequence before `e`. -/
theorem ackOf_succ (c : Config) (e : Nat) : ackOf c (e + 1) = e % c.r := by
  rw [ackOf, Nat.add_assoc, Nat.add_comm 1, show c.maxSeq + 1 = c.r from rfl, Nat.add_mod_right]

/-- An acknowledgment of all that is acknowledged already is of no outstanding sequence. -/
theorem State.Holds.ackOf_acked (h : s.Holds sent acked) : s.outstanding (ackOf s.cfg acked) = false := by
  have hr : s.cfg.r = s.cfg.maxSeq + 1 := rfl
  have hw := Config.w_lt_r h.legal
  have hbound := h.bound
  have hfar : forward s.cfg s.ackExpected (ackOf s.cfg acked) = s.cfg.maxSeq := by
    rw [h.ack_expected, ackOf, forward_mod_of_lt (by omega) (by omega), Nat.add_sub_cancel_left]
  rw [← Bool.not_eq_true, State.outstanding_iff h.consistent (ackOf_le _ _), hfar]
  omega

/-- ACK_THROUGH of a receiver's acknowledgment value leaves exactly what that receiver awaits (R160). -/
theorem State.Holds.ackThrough (h : s.Holds sent acked) {e : Nat} (hlow : acked ≤ e) (hhigh : e ≤ sent.length) :
    (s.ackThrough (ackOf s.cfg e)).Holds sent e := by
  rcases Nat.lt_or_eq_of_le hlow with hlt | rfl
  case inr => rwa [s.ackThrough_outside h.ackOf_acked]
  obtain ⟨n, rfl⟩ := Nat.exists_eq_add_of_lt hlt
  have hcount := h.count
  have hbound := h.bound
  have hw := Config.w_lt_r h.legal
  have hdist : forward s.cfg s.ackExpected ((acked + n) % s.cfg.r) = n := by
    rw [h.ack_expected, forward_mod_of_lt (by omega) (by omega), Nat.add_sub_cancel_left]
  have hle := mod_r_le s.cfg (acked + n)
  have hout : s.outstanding ((acked + n) % s.cfg.r) = true := by
    rw [State.outstanding_iff h.consistent hle, hdist]
    omega
  rw [ackOf_succ, State.ackThrough_inside h.consistent hle hout, hdist,
    State.retire_iterate_frame h.consistent.ack_expected]
  refine ⟨h.legal, ?_, h.next_to_send, ?_, (Nat.sub_le _ _).trans hbound, fun k hk hlt => ?_⟩
  · show ahead s.cfg s.ackExpected (n + 1) = (acked + n + 1) % s.cfg.r
    rw [ahead, h.ack_expected, Nat.mod_add_mod, Nat.add_assoc]
  · show sent.length = acked + n + 1 + (s.bufferedCount - (n + 1))
    omega
  · exact (h.packets k (by omega) hlt).trans (congrArg some (State.memRead_congr rfl rfl rfl _))

end Sender

/-! ### The receiver and the packets it is sent -/

/-- Of the packets `sent` the receiver has had the first `got`, and every one it has marked as arrived is the one
of that count (R25 to R29). -/
structure State.Stores (s : State) (sent : List Bytes) (got : Nat) : Prop where
  legal          : s.cfg.legal = true
  expected       : s.expected = got % s.cfg.r
  too_far        : s.tooFar = (got + s.cfg.w) % s.cfg.r
  arrived_length : s.arrived.length = s.cfg.w
  upto           : got ≤ sent.length
  stored         : ∀ j, got ≤ j → j < got + s.cfg.w → s.arrived.getD (j % s.cfg.w) false = true →
    sent[j]? = some (s.memRead .reassembly (j % s.cfg.w))

/-- Besides, nothing waits to be delivered (R28). -/
structure State.Awaits (s : State) (sent : List Bytes) (got : Nat) : Prop extends s.Stores sent got where
  waiting : s.arrivedAt s.expected = false

/-- What has been delivered and what is marked as arrived is below the count `b`. -/
structure State.Below (s : State) (got b : Nat) : Prop where
  passed  : got ≤ b
  arrived : ∀ j, got ≤ j → j < got + s.cfg.w → s.arrived.getD (j % s.cfg.w) false = true → j < b

section Receiver

variable {s t : State} {sent : List Bytes} {got b k : Nat} {p : Bytes}

theorem State.Awaits.congr (h : s.Awaits sent got) (hs : t.receiverSide = s.receiverSide) : t.Awaits sent got := by
  have hcfg := State.cfg_eq_of_receiverSide hs
  have hwin : t.receiverWindow = s.receiverWindow := congrArg ReceiverSide.window hs
  obtain ⟨⟨hl, hexp, htf, hlen, hupto, hstored⟩, hwait⟩ := h
  refine ⟨⟨hcfg ▸ hl, ?_, ?_, ?_, hupto, fun j hj hjw ha => ?_⟩, ?_⟩
  · rw [hcfg, ← hexp]; exact congrArg ReceiverWindow.expected hwin
  · rw [hcfg, ← htf]; exact congrArg ReceiverWindow.tooFar hwin
  · rw [hcfg, ← hlen, State.arrived_eq_of_receiverSide hs]
  · rw [hcfg] at hjw ha ⊢
    rw [State.arrived_eq_of_receiverSide hs] at ha
    rw [State.memRead_reassembly_of_receiverSide hs]
    exact hstored j hj hjw ha
  · rw [State.arrivedAt_of_receiverSide hs, State.expected_eq_of_receiverSide hs, hwait]

theorem State.Below.congr (h : s.Below got b) (hs : t.receiverSide = s.receiverSide) : t.Below got b := by
  have hcfg := State.cfg_eq_of_receiverSide hs
  refine ⟨h.passed, fun j hj hjw ha => ?_⟩
  rw [hcfg] at hjw ha
  rw [State.arrived_eq_of_receiverSide hs] at ha
  exact h.arrived j hj hjw ha

theorem State.Stores.mono (h : s.Stores sent got) (q : Bytes) : s.Stores (sent ++ [q]) got where
  legal := h.legal
  expected := h.expected
  too_far := h.too_far
  arrived_length := h.arrived_length
  upto := h.upto.trans (by simp)
  stored j hj hjw ha := by
    have hsome := h.stored j hj hjw ha
    rwa [List.getElem?_append_left (List.getElem?_eq_some_iff.mp hsome).1]

theorem State.Stores.below_length (h : s.Stores sent got) : s.Below got sent.length where
  passed := h.upto
  arrived j hj hjw ha := (List.getElem?_eq_some_iff.mp (h.stored j hj hjw ha)).1

theorem State.Below.trans (h : s.Below got b) {b' : Nat} (hb : b ≤ b') : s.Below got b' :=
  ⟨h.passed.trans hb, fun j hj hjw ha => (h.arrived j hj hjw ha).trans_le hb⟩

/-- The arrival bit of a count after the store of another (R170). -/
theorem State.Stores.store_bit (h : s.Stores sent got) (k : Nat) (p : Bytes) (j : Nat) :
    (s.store (k % s.cfg.r) p).arrived.getD (j % s.cfg.w) false =
      if j % s.cfg.w = k % s.cfg.w then true else s.arrived.getD (j % s.cfg.w) false := by
  rw [State.store_arrived, getD_set_slot h.legal h.arrived_length, slot_mod h.legal]

/-- The arrival bit of a count after an advance past `got`. -/
theorem State.Stores.advance_bit (h : s.Stores sent got) (j : Nat) :
    s.advance.arrived.getD (j % s.cfg.w) false =
      if j % s.cfg.w = got % s.cfg.w then false else s.arrived.getD (j % s.cfg.w) false := by
  rw [State.advance_arrived, getD_set_slot h.legal h.arrived_length, h.expected, slot_mod h.legal]

/-- Storing the packet of its count keeps every stored one that of its own. -/
theorem State.Stores.store (h : s.Stores sent got) (hlow : got ≤ k) (hhigh : k < got + s.cfg.w)
    (hp : p.length = s.cfg.fixedLen) (hk : sent[k]? = some p) : (s.store (k % s.cfg.r) p).Stores sent got := by
  refine ⟨h.legal, h.expected, h.too_far, ?_, h.upto, fun j hj hjw ha => ?_⟩
  · exact List.length_set.trans h.arrived_length
  · rw [State.store_cfg] at ha hjw ⊢
    rw [h.store_bit] at ha
    by_cases hjk : j % s.cfg.w = k % s.cfg.w
    · obtain rfl : j = k := mod_w_inj hj hjw hlow hhigh hjk
      rw [hk, ← slot_mod h.legal, State.memRead_store hp]
    · rw [if_neg hjk] at ha
      have hother : slot s.cfg (k % s.cfg.r) ≠ j % s.cfg.w := by
        rw [slot_mod h.legal]
        exact Ne.symm hjk
      rw [h.stored j hj hjw ha, State.memRead_store_other hp hother]

theorem State.Below.store (h : s.Below got b) (hs : s.Stores sent got) (hlow : got ≤ k)
    (hhigh : k < got + s.cfg.w) (hkb : k < b) (p : Bytes) : (s.store (k % s.cfg.r) p).Below got b := by
  refine ⟨h.passed, fun j hj hjw ha => ?_⟩
  rw [State.store_cfg] at ha hjw
  rw [hs.store_bit] at ha
  by_cases hjk : j % s.cfg.w = k % s.cfg.w
  · exact (mod_w_inj hj hjw hlow hhigh hjk).trans_lt hkb
  · rw [if_neg hjk] at ha
    exact h.arrived j hj hjw ha

/-- The bit at `expected` is the bit of the count `got`. -/
theorem State.Stores.arrivedAt_expected (h : s.Stores sent got) :
    s.arrivedAt s.expected = s.arrived.getD (got % s.cfg.w) false := by
  rw [State.arrivedAt, h.expected, slot_mod h.legal]

/-- An arrival bit set after an advance was set before, of a count of the old window. -/
theorem State.Stores.of_advance_bit (h : s.Stores sent got) {j : Nat} (hj : got + 1 ≤ j)
    (hjw : j < got + 1 + s.cfg.w) (ha : s.advance.arrived.getD (j % s.cfg.w) false = true) :
    j < got + s.cfg.w ∧ s.arrived.getD (j % s.cfg.w) false = true := by
  rw [h.advance_bit] at ha
  have hne : j % s.cfg.w ≠ got % s.cfg.w := fun he => by
    rw [if_pos he] at ha
    cases ha
  rw [if_neg hne] at ha
  have hjne : j ≠ got + s.cfg.w := by
    rintro rfl
    exact hne (Nat.add_mod_right _ _)
  exact ⟨by omega, ha⟩

/-- A round of the drain hands out the packet of its count. -/
theorem State.Stores.advance (h : s.Stores sent got) (hhere : s.arrivedAt s.expected = true) :
    s.advance.Stores sent (got + 1) ∧
      sent[got]? = some (s.memRead .reassembly (slot s.cfg s.expected)) := by
  have hw := Config.w_pos h.legal
  have hgot : sent[got]? = some (s.memRead .reassembly (got % s.cfg.w)) :=
    h.stored got (Nat.le_refl _) (by omega) (h.arrivedAt_expected ▸ hhere)
  refine ⟨⟨h.legal, ?_, ?_, ?_, (List.getElem?_eq_some_iff.mp hgot).1, fun j hj hjw ha => ?_⟩, ?_⟩
  · rw [State.advance_expected, h.expected, inc, Nat.mod_add_mod]
    rfl
  · rw [State.advance_tooFar, h.too_far, inc, Nat.mod_add_mod, Nat.add_right_comm]
    rfl
  · exact List.length_set.trans h.arrived_length
  · obtain ⟨hjw', ha'⟩ := h.of_advance_bit hj hjw ha
    exact h.stored j (by omega) hjw' ha'
  · rw [h.expected, slot_mod h.legal, hgot]

theorem State.Below.advance (h : s.Below got b) (hs : s.Stores sent got)
    (hhere : s.arrivedAt s.expected = true) : s.advance.Below (got + 1) b := by
  have hw := Config.w_pos hs.legal
  refine ⟨h.arrived got (Nat.le_refl _) (by omega) (hs.arrivedAt_expected ▸ hhere), fun j hj hjw ha => ?_⟩
  obtain ⟨hjw', ha'⟩ := hs.of_advance_bit hj hjw ha
  exact h.arrived j (by omega) hjw' ha'

/-- The drain hands out the packets behind the first `got`, in order. -/
theorem State.Stores.drain (h : s.Stores sent got) (fuel : Nat) : ∃ n,
    (State.drain fuel s).1.Stores sent (got + n) ∧
    sent.take (got + n) = sent.take got ++ (State.drain fuel s).2 ∧
    ∀ b, s.Below got b → (State.drain fuel s).1.Below (got + n) b := by
  induction fuel generalizing s got with
  | zero => exact ⟨0, h, (List.append_nil _).symm, fun _ hb => hb⟩
  | succ fuel ih =>
    rw [State.drain]
    split_ifs with hhere
    · obtain ⟨hadv, hgot⟩ := h.advance hhere
      obtain ⟨n, hstores, hout, hbelow⟩ := ih hadv
      rw [Nat.add_assoc, Nat.add_comm 1] at hstores hout hbelow
      refine ⟨n + 1, hstores, ?_, fun b hb => hbelow b (hb.advance h hhere)⟩
      rw [hout, List.take_add_one, hgot, List.append_assoc]
      rfl
    · exact ⟨0, h, (List.append_nil _).symm, fun _ hb => hb⟩

/-- A count at most `W` behind is in the window only if it is not behind at all (R170). -/
theorem State.Stores.inWindow (h : s.Stores sent got) (hback : got ≤ k + s.cfg.w)
    (hw : s.inWindow (k % s.cfg.r) = true) (hhigh : k < got + s.cfg.w) : got ≤ k := by
  have hr := r_eq_two_w h.legal
  rw [State.inWindow, between_iff_forward_lt (h.expected.trans_le (mod_r_le _ _)) (mod_r_le _ _)
    (h.too_far.trans_le (mod_r_le _ _)), h.expected, h.too_far,
    forward_mod_of_lt (Nat.le_add_right got s.cfg.w) (by have := Config.w_lt_r h.legal; omega),
    Nat.add_sub_cancel_left] at hw
  by_contra hlt
  have hturn : k % s.cfg.r = (k + s.cfg.r) % s.cfg.r := (Nat.add_mod_right _ _).symm
  rw [hturn, forward_mod_of_lt (by omega) (by omega)] at hw
  omega

/-- ON_DATA of the packet of a count near enough: the receiver goes on through the packets in order, and nothing
but that count is new to it (R170). -/
theorem State.Awaits.onData (h : s.Awaits sent got) (hs : s.RingRegs) (hp : p.length = s.cfg.fixedLen)
    (hk : sent[k]? = some p) (hback : got ≤ k + s.cfg.w) (hhigh : k < got + s.cfg.w) : ∃ n,
    (s.onData (k % s.cfg.r) p).state.Awaits sent (got + n) ∧
    sent.take (got + n) = sent.take got ++ (s.onData (k % s.cfg.r) p).out ∧
    ∀ b, k < b → s.Below got b → (s.onData (k % s.cfg.r) p).state.Below (got + n) b := by
  cases hw : s.inWindow (k % s.cfg.r) with
  | false =>
    rw [State.onData_outside p hw]
    exact ⟨0, h, (List.append_nil _).symm, fun _ _ hb => hb⟩
  | true =>
    cases ha : s.arrivedAt (k % s.cfg.r) with
    | true =>
      rw [State.onData_arrived p hw ha]
      exact ⟨0, h, (List.append_nil _).symm, fun _ _ hb => hb⟩
    | false =>
      have hlow := h.toStores.inWindow hback hw hhigh
      have hstore := h.toStores.store hlow hhigh hp hk
      obtain ⟨n, hdrained, hout, hbelow⟩ := hstore.drain s.cfg.w
      obtain ⟨m, hrun⟩ := State.exists_run s.cfg.w (s.store (k % s.cfg.r) p)
      have hwait : (State.drain s.cfg.w (s.store (k % s.cfg.r) p)).1.arrivedAt
          (State.drain s.cfg.w (s.store (k % s.cfg.r) p)).1.expected = false := by
        rw [hrun.drain_eq]
        exact State.Run.waiting (s := s.store (k % s.cfg.r) p) hrun h.legal hstore.arrived_length
          (State.store_ringRegs hs _ _)
      rw [State.onData_new p hw ha]
      exact ⟨n, ⟨hdrained, hwait⟩, hout, fun b hkb hb =>
        hbelow b (hb.store h.toStores hlow hhigh hkb p)⟩

end Receiver

end Sys2Proof.Machine

/-! PROOF. In-order delivery over a link (R252, R263; log 17): each frame in flight stands for a count its sender had
reached and, if it is DATA, for the count of its packet; channels that keep their order keep both from going stale,
and the statement follows: LinkDeliversInOrder. -/

namespace Sys2Proof.Machine

/-! ### What the frames in flight stand for -/

/-- What an intact frame stands for: its sender had received everything below `upTo`, and a DATA frame carries the
packet that counts as `data`. -/
structure Tag where
  upTo : Nat
  data : Option Nat

/-- How far an end has come: what its peer has acknowledged to it, and what it has received. -/
structure Counts where
  acked : Nat
  got   : Nat

/-- DECODE makes of the frame what its tag says; without a tag it is corrupt (R115, R134). -/
def Reads (c : Config) (sent : List Bytes) (f : Bytes) : Option Tag → Prop
  | none => decodeFrame c f = .corruptFrame
  | some ⟨e, none⟩ => decodeFrame c f = .ack (ackOf c e) ∨ decodeFrame c f = .nak (ackOf c e)
  | some ⟨e, some k⟩ => ∃ p, sent[k]? = some p ∧ decodeFrame c f = .data (ackOf c e) (k % c.r) p

/-- A tag on its way from `x` to `y` is not stale: `y` knows no more than it acknowledges, and its packet is at most
`W` behind all that `y` has accepted. -/
structure Tag.Current (x y : End) (m n : Counts) (t : Tag) : Prop where
  acked : n.acked ≤ t.upTo
  upTo  : t.upTo ≤ m.got
  data  : ∀ k ∈ t.data, k < x.submitted.length ∧ y.engine.Below n.got (k + y.engine.cfg.w)

/-- What holds of an earlier and a later tag of one channel. -/
structure Tag.Before (w : Nat) (t t' : Tag) : Prop where
  upTo : t.upTo ≤ t'.upTo
  data : ∀ k ∈ t.data, ∀ k' ∈ t'.data, k < k' + w

/-- The frames in flight from `x` to `y`, with their tags. -/
structure Flight (x y : End) (m n : Counts) (fl : List (Bytes × Option Tag)) : Prop where
  frames  : fl.map Prod.fst = y.inbound
  reads   : ∀ z ∈ fl, Reads y.engine.cfg x.submitted z.1 z.2
  current : ∀ z ∈ fl, ∀ t ∈ z.2, t.Current x y m n
  order   : fl.Pairwise fun z z' => ∀ t ∈ z.2, ∀ t' ∈ z'.2, t.Before y.engine.cfg.w t'

/-- The packets from `x` to `y`: the sender's side at `x`, the receiver's at `y`, and what was delivered. -/
structure Half (x y : End) (m n : Counts) : Prop where
  holds     : x.engine.Holds x.submitted m.acked
  awaits    : y.engine.Awaits x.submitted n.got
  delivered : y.delivered = x.submitted.take n.got
  acked_le  : m.acked ≤ n.got
  lengths   : ∀ p ∈ x.submitted, p.length = x.engine.cfg.fixedLen

/-- Two ends of a link, with the frames in flight to `y` and to `x`. -/
structure Joined (x y : End) (m n : Counts) (fy fx : List (Bytes × Option Tag)) : Prop where
  peers       : Peers x.engine.cfg y.engine.cfg
  out         : Half x y m n
  back        : Half y x n m
  flight_out  : Flight x y m n fy
  flight_back : Flight y x n m fx

/-! ### Ends that go together -/

section PeerFacts

variable {c c' : Config}

theorem Peers.symm (h : Peers c c') : Peers c' c :=
  ⟨h.max_seq.symm, h.fixed_len.symm, fun b => (h.ck b).symm⟩

theorem Peers.w_eq (h : Peers c c') (hl : c.legal = true) (hl' : c'.legal = true) : c.w = c'.w := by
  have h1 := Config.two_w hl
  have h2 := Config.two_w hl'
  have hr : c.r = c'.r := congrArg (· + 1) h.max_seq
  omega

theorem Peers.r_eq (h : Peers c c') : c.r = c'.r := congrArg (· + 1) h.max_seq

theorem Peers.ackOf_eq (h : Peers c c') (e : Nat) : ackOf c e = ackOf c' e := by
  rw [ackOf, ackOf, h.r_eq, h.max_seq]

theorem Peers.encodeFrame_eq (h : Peers c c') (f : Frame) : encodeFrame c f = encodeFrame c' f := by
  rw [encodeFrame, encodeFrame, Config.trailer, Config.trailer, h.ck]

end PeerFacts

section Ends

variable {x y : End} {m n : Counts} {fy fx fl : List (Bytes × Option Tag)}

theorem Joined.symm (h : Joined x y m n fy fx) : Joined y x n m fx fy :=
  ⟨h.peers.symm, h.back, h.out, h.flight_back, h.flight_out⟩

theorem Joined.w_eq (h : Joined x y m n fy fx) : x.engine.cfg.w = y.engine.cfg.w :=
  h.peers.w_eq h.out.holds.legal h.back.holds.legal

theorem Joined.ringRegs (h : Joined x y m n fy fx) : x.engine.RingRegs where
  ack_expected := h.out.holds.consistent.ack_expected
  next_to_send := h.out.holds.consistent.next_to_send
  expected := h.back.awaits.expected.trans_le (mod_r_le _ _)
  too_far := h.back.awaits.too_far.trans_le (mod_r_le _ _)

/-- The acknowledgment value of a joined end says what it has received (R134). -/
theorem Joined.ackval_eq (h : Joined x y m n fy fx) : x.engine.ackval = ackOf x.engine.cfg m.got := by
  rw [State.ackval, h.back.awaits.expected, Nat.mod_add_mod, ackOf]

/-! ### What a half and a flight depend on -/

theorem Half.congr {x' y' : End} (h : Half x y m n) (hx : x'.engine = x.engine) (hs : x'.submitted = x.submitted)
    (hy : y'.engine = y.engine) (hd : y'.delivered = y.delivered) : Half x' y' m n := by
  obtain ⟨hholds, hawaits, hdelivered, hacked, hlengths⟩ := h
  exact ⟨by rwa [hx, hs], by rwa [hy, hs], by rw [hd, hs, hdelivered], hacked, by rwa [hx, hs]⟩

theorem Tag.Current.congr {x' y' : End} {t : Tag} (h : t.Current x y m n) (hs : x'.submitted = x.submitted)
    (hy : y'.engine = y.engine) : t.Current x' y' m n :=
  ⟨h.acked, h.upTo, by rw [hs, hy]; exact h.data⟩

theorem Flight.congr {x' y' : End} (h : Flight x y m n fl) (hs : x'.submitted = x.submitted)
    (hy : y'.engine = y.engine) (hi : y'.inbound = y.inbound) : Flight x' y' m n fl := by
  obtain ⟨hframes, hreads, hcur, horder⟩ := h
  exact ⟨hframes.trans hi.symm, by rwa [hs, hy], fun z hz t ht => (hcur z hz t ht).congr hs hy, by rwa [hy]⟩

/-! ### An engine moves without touching its sides -/

theorem Flight.engine (h : Flight y x n m fl) {u : State} (hs : u.receiverSide = x.engine.receiverSide) :
    Flight y { x with engine := u } n m fl := by
  have hcfg : u.cfg = x.engine.cfg := State.cfg_eq_of_receiverSide hs
  refine ⟨h.frames, ?_, fun z hz t ht => ?_, ?_⟩
  · show ∀ z ∈ fl, Reads u.cfg y.submitted z.1 z.2
    exact hcfg ▸ h.reads
  · obtain ⟨hacked, hupTo, hdata⟩ := h.current z hz t ht
    refine ⟨hacked, hupTo, fun k hk => ⟨(hdata k hk).1, ?_⟩⟩
    show u.Below m.got (k + u.cfg.w)
    exact hcfg ▸ (hdata k hk).2.congr hs
  · show fl.Pairwise fun z z' => ∀ t ∈ z.2, ∀ t' ∈ z'.2, t.Before u.cfg.w t'
    exact hcfg ▸ h.order

theorem Joined.engine (h : Joined x y m n fy fx) {u : State} (hs : x.engine.SameSides u) :
    Joined { x with engine := u } y m n fy fx := by
  have hcfg : u.cfg = x.engine.cfg := State.cfg_eq_of_senderSide hs.sender
  refine ⟨?_, ⟨h.out.holds.congr hs.sender, h.out.awaits, h.out.delivered, h.out.acked_le, ?_⟩,
    ⟨h.back.holds, h.back.awaits.congr hs.receiver, h.back.delivered, h.back.acked_le, h.back.lengths⟩,
    h.flight_out.congr rfl rfl rfl, h.flight_back.engine hs.receiver⟩
  · show Peers u.cfg y.engine.cfg
    exact hcfg ▸ h.peers
  · show ∀ p ∈ x.submitted, p.length = u.cfg.fixedLen
    exact hcfg ▸ h.out.lengths

/-! ### A frame is sent -/

/-- The frames an engine may send as it stands: its acknowledgment value, with an outstanding packet or none
(R157). -/
def State.Sendable (s : State) (f : Frame) : Prop :=
  f = .ack s.ackval ∨ f = .nak s.ackval ∨
    ∃ q ≤ s.cfg.maxSeq, s.outstanding q = true ∧ f = s.frameOf .data q

/-- A frame without a packet stands for what its sender has received. -/
theorem Joined.tag_control (h : Joined x y m n fy fx) :
    (Tag.mk m.got none).Current x y m n ∧
      ∀ z ∈ fy, ∀ t ∈ z.2, t.Before y.engine.cfg.w (Tag.mk m.got none) :=
  ⟨⟨h.back.acked_le, Nat.le_refl _, fun _ hk => nomatch hk⟩,
    fun z hz t ht => ⟨(h.flight_out.current z hz t ht).upTo, fun _ _ _ hk' => nomatch hk'⟩⟩

/-- A packet not yet acknowledged is at most `W` behind all that was submitted. -/
theorem Joined.tag_data (h : Joined x y m n fy fx) {k : Nat} (hlow : m.acked ≤ k) (hk : k < x.submitted.length) :
    (Tag.mk m.got (some k)).Current x y m n ∧
      ∀ z ∈ fy, ∀ t ∈ z.2, t.Before y.engine.cfg.w (Tag.mk m.got (some k)) := by
  have hnear : x.submitted.length ≤ k + y.engine.cfg.w := by
    have hcount := h.out.holds.count
    have hbound := h.out.holds.bound
    rw [h.w_eq] at hbound
    omega
  refine ⟨⟨h.back.acked_le, Nat.le_refl _, ?_⟩, fun z hz t ht => ?_⟩
  · rintro k' ⟨⟩
    exact ⟨hk, h.out.awaits.below_length.trans hnear⟩
  · obtain ⟨-, hupTo, hdata⟩ := h.flight_out.current z hz t ht
    refine ⟨hupTo, fun i hi k' hk' => ?_⟩
    cases hk'
    exact (hdata i hi).1.trans_le hnear

/-- The peer reads a frame sent now as a tag that is not stale. -/
theorem Joined.exists_tag (h : Joined x y m n fy fx) {f : Frame} (hf : x.engine.Sendable f) :
    ∃ t, Reads y.engine.cfg x.submitted (encodeFrame x.engine.cfg f) (some t) ∧ t.Current x y m n ∧
      ∀ z ∈ fy, ∀ t' ∈ z.2, t'.Before y.engine.cfg.w t := by
  have hack : x.engine.ackval = ackOf y.engine.cfg m.got := h.ackval_eq.trans (h.peers.ackOf_eq _)
  have hle := ackOf_le y.engine.cfg m.got
  have hl := h.back.holds.legal
  rw [h.peers.encodeFrame_eq]
  rcases hf with rfl | rfl | ⟨q, hq, hout, rfl⟩
  · exact ⟨⟨m.got, none⟩, .inl (by rw [hack]; exact decodeFrame_encodeFrame_ack hl hle), h.tag_control⟩
  · exact ⟨⟨m.got, none⟩, .inr (by rw [hack]; exact decodeFrame_encodeFrame_nak hl hle), h.tag_control⟩
  · obtain ⟨k, p, hlow, hk, -, hframe⟩ := h.out.holds.outstanding hq hout
    obtain ⟨hlt, -⟩ := List.getElem?_eq_some_iff.mp hk
    have hp : p.length = y.engine.cfg.fixedLen :=
      (h.out.lengths p (List.mem_of_getElem? hk)).trans h.peers.fixed_len
    refine ⟨⟨m.got, some k⟩, ⟨p, hk, ?_⟩, h.tag_data hlow hlt⟩
    rw [hframe, hack, h.peers.r_eq]
    exact decodeFrame_encodeFrame_data hl hle (mod_r_le _ _) hp

theorem Joined.send (h : Joined x y m n fy fx) {f : Frame} (hf : x.engine.Sendable f) :
    ∃ fy', Joined x { y with inbound := y.inbound ++ [encodeFrame x.engine.cfg f] } m n fy' fx := by
  obtain ⟨t, hreads, hcur, hbefore⟩ := h.exists_tag hf
  obtain ⟨hframes, hfreads, hfcur, horder⟩ := h.flight_out
  refine ⟨fy ++ [(encodeFrame x.engine.cfg f, some t)], h.peers, h.out.congr rfl rfl rfl rfl,
    h.back.congr rfl rfl rfl rfl, ⟨?_, ?_, ?_, ?_⟩, h.flight_back.congr rfl rfl rfl⟩
  · rw [List.map_append, hframes]
    rfl
  · exact List.forall_mem_append.mpr ⟨hfreads, by simpa using hreads⟩
  · exact List.forall_mem_append.mpr ⟨fun z hz t ht => (hfcur z hz t ht).congr rfl rfl,
      List.forall_mem_singleton.mpr (by rintro _ ⟨⟩; exact hcur.congr rfl rfl)⟩
  · exact List.pairwise_append.mpr ⟨horder, List.pairwise_singleton _ _, by simpa using hbefore⟩

theorem Joined.sendAll (h : Joined x y m n fy fx) {fs : List Frame} (hfs : ∀ f ∈ fs, x.engine.Sendable f) :
    ∃ fy', Joined x { y with inbound := y.inbound ++ fs.map (encodeFrame x.engine.cfg) } m n fy' fx := by
  induction fs generalizing y fy with
  | nil => exact ⟨fy, by simpa using h⟩
  | cons f fs ih =>
    obtain ⟨hf, hrest⟩ := List.forall_mem_cons.mp hfs
    obtain ⟨fy', h'⟩ := h.send hf
    simpa using ih h' hrest

/-! ### An acknowledgment, a packet received, a packet submitted -/

/-- ACK_THROUGH of a count that no tag behind it undercuts (R160). -/
theorem Joined.ack (h : Joined x y m n fy fx) {e : Nat} (hlow : m.acked ≤ e) (hhigh : e ≤ n.got)
    (hrest : ∀ z ∈ fx, ∀ t ∈ z.2, e ≤ t.upTo) :
    Joined { x with engine := x.engine.ackThrough (ackOf x.engine.cfg e) } y ⟨e, m.got⟩ n fy fx := by
  have hreceiver : (x.engine.ackThrough (ackOf x.engine.cfg e)).receiverSide = x.engine.receiverSide :=
    State.ackThrough_receiverSide _ _
  have hcfg := State.ackThrough_cfg x.engine (ackOf x.engine.cfg e)
  obtain ⟨hframes, hreads, hcur, horder⟩ := h.flight_back.engine hreceiver
  have hholds := h.out.holds.ackThrough hlow (hhigh.trans h.out.awaits.upto)
  obtain ⟨hout, hreadsOut, hcurOut, horderOut⟩ := h.flight_out
  refine ⟨?_, ⟨hholds, h.out.awaits, h.out.delivered, hhigh, ?_⟩,
    ⟨h.back.holds, h.back.awaits.congr hreceiver, h.back.delivered, h.back.acked_le, h.back.lengths⟩,
    ⟨hout, hreadsOut, fun z hz t ht => ?_, horderOut⟩, ⟨hframes, hreads, fun z hz t ht => ?_, horder⟩⟩
  · show Peers (x.engine.ackThrough _).cfg y.engine.cfg
    exact hcfg.symm ▸ h.peers
  · show ∀ p ∈ x.submitted, p.length = (x.engine.ackThrough _).cfg.fixedLen
    exact hcfg.symm ▸ h.out.lengths
  · obtain ⟨hacked, hupTo, hdata⟩ := hcurOut z hz t ht
    exact ⟨hacked, hupTo, hdata⟩
  · obtain ⟨-, hupTo, hdata⟩ := hcur z hz t ht
    exact ⟨hrest z hz t ht, hupTo, hdata⟩

/-- ON_DATA of a packet at most `W` behind all the receiver has accepted, with its deliveries (R170, R186). -/
theorem Joined.receive (h : Joined x y m n fy fx) {k : Nat} {p : Bytes} {o : OnData}
    (ho : x.engine.onData (k % x.engine.cfg.r) p = o) (hk : y.submitted[k]? = some p)
    (hbelow : x.engine.Below m.got (k + x.engine.cfg.w))
    (hrest : ∀ z ∈ fx, ∀ t ∈ z.2, ∀ k' ∈ t.data, k < k' + x.engine.cfg.w) : ∃ got,
    Joined { x with engine := o.state, delivered := x.delivered ++ o.out } y ⟨m.acked, got⟩ n fy fx := by
  have hp : p.length = x.engine.cfg.fixedLen :=
    (h.back.lengths p (List.mem_of_getElem? hk)).trans h.peers.fixed_len.symm
  have hnear : k < m.got + x.engine.cfg.w := by
    have hcount := h.back.holds.count
    have hbound := h.back.holds.bound
    have hacked := h.back.acked_le
    obtain ⟨hlt, -⟩ := List.getElem?_eq_some_iff.mp hk
    rw [← h.w_eq] at hbound
    omega
  obtain ⟨i, hawaits, htake, hkeep⟩ := h.back.awaits.onData h.ringRegs hp hk hbelow.passed hnear
  have hcfg := State.onData_state_cfg x.engine (k % x.engine.cfg.r) p
  have hsender := x.engine.onData_senderSide (k % x.engine.cfg.r) p
  rw [ho] at hawaits htake hkeep hcfg hsender
  refine ⟨m.got + i, ?_,
    ⟨h.out.holds.congr hsender, h.out.awaits, h.out.delivered, h.out.acked_le, ?_⟩,
    ⟨h.back.holds, hawaits, ?_, h.back.acked_le.trans (Nat.le_add_right _ _), h.back.lengths⟩,
    ⟨h.flight_out.frames, h.flight_out.reads, fun z hz t ht => ?_, h.flight_out.order⟩,
    ⟨h.flight_back.frames, ?_, fun z hz t ht => ?_, ?_⟩⟩
  · show Peers o.state.cfg y.engine.cfg
    exact hcfg.symm ▸ h.peers
  · show ∀ p ∈ x.submitted, p.length = o.state.cfg.fixedLen
    exact hcfg.symm ▸ h.out.lengths
  · rw [htake, h.back.delivered]
  · obtain ⟨hacked, hupTo, hdata⟩ := h.flight_out.current z hz t ht
    exact ⟨hacked, hupTo.trans (Nat.le_add_right _ _), hdata⟩
  · show ∀ z ∈ fx, Reads o.state.cfg y.submitted z.1 z.2
    exact hcfg.symm ▸ h.flight_back.reads
  · obtain ⟨hacked, hupTo, hdata⟩ := h.flight_back.current z hz t ht
    refine ⟨hacked, hupTo, fun k' hk' => ⟨(hdata k' hk').1, ?_⟩⟩
    show o.state.Below (m.got + i) (k' + o.state.cfg.w)
    rw [hcfg]
    exact hkeep _ (hrest z hz t ht k' hk') (hdata k' hk').2
  · show fx.Pairwise fun z z' => ∀ t ∈ z.2, ∀ t' ∈ z'.2, t.Before o.state.cfg.w t'
    exact hcfg.symm ▸ h.flight_back.order

theorem Reads.mono {c : Config} {sent : List Bytes} {f : Bytes} {tag : Option Tag} (h : Reads c sent f tag)
    (p : Bytes) : Reads c (sent ++ [p]) f tag := by
  match tag, h with
  | none, h => exact h
  | some ⟨_, none⟩, h => exact h
  | some ⟨_, some k⟩, ⟨q, hk, hd⟩ =>
    exact ⟨q, by rw [List.getElem?_append_left (List.getElem?_eq_some_iff.mp hk).1, hk], hd⟩

/-- SUBMIT of the packet the upper layer hands over (R155). -/
theorem Joined.submit (h : Joined x y m n fy fx) (hroom : x.engine.bufferedCount < x.engine.cfg.w) {p : Bytes}
    (hp : p.length = x.engine.cfg.fixedLen) (rest : List Bytes) :
    Joined { x with engine := x.engine.submit p, submitted := x.submitted ++ [p], waiting := rest } y m n fy fx := by
  obtain ⟨hstores, hwait⟩ := h.out.awaits
  have hreceiver := x.engine.submit_receiverSide p
  refine ⟨h.peers, ⟨h.out.holds.submit hroom hp, ⟨hstores.mono p, hwait⟩, ?_, h.out.acked_le, ?_⟩,
    ⟨h.back.holds, h.back.awaits.congr hreceiver, h.back.delivered, h.back.acked_le, h.back.lengths⟩,
    ⟨h.flight_out.frames, fun z hz => (h.flight_out.reads z hz).mono p, fun z hz t ht => ?_, h.flight_out.order⟩,
    (h.flight_back.engine hreceiver).congr rfl rfl rfl⟩
  · rw [h.out.delivered, List.take_append_of_le_length hstores.upto]
  · exact List.forall_mem_append.mpr ⟨h.out.lengths, by simpa using hp⟩
  · obtain ⟨hacked, hupTo, hdata⟩ := h.flight_out.current z hz t ht
    exact ⟨hacked, hupTo, fun k hk => ⟨(hdata k hk).1.trans_le (by simp), (hdata k hk).2⟩⟩

/-! ### The channel loses or corrupts a frame, or presents the oldest -/

theorem Joined.inbound (h : Joined x y m n fy fx) {fs : List Bytes} {fl : List (Bytes × Option Tag)}
    (hframes : fl.map Prod.fst = fs) (hreads : ∀ z ∈ fl, Reads x.engine.cfg y.submitted z.1 z.2)
    (hcur : ∀ z ∈ fl, ∀ t ∈ z.2, t.Current y x n m)
    (horder : fl.Pairwise fun z z' => ∀ t ∈ z.2, ∀ t' ∈ z'.2, t.Before x.engine.cfg.w t') :
    Joined { x with inbound := fs } y m n fy fl :=
  ⟨h.peers, h.out.congr rfl rfl rfl rfl, h.back.congr rfl rfl rfl rfl, h.flight_out.congr rfl rfl rfl,
    hframes, hreads, fun z hz t ht => (hcur z hz t ht).congr rfl rfl, horder⟩

/-- A loss leaves the other frames in their order. -/
theorem Joined.lose (h : Joined x y m n fy fx) (k : Nat) :
    Joined { x with inbound := x.inbound.eraseIdx k } y m n fy (fx.eraseIdx k) := by
  have hsub : (fx.eraseIdx k).Sublist fx := List.eraseIdx_sublist fx k
  obtain ⟨hframes, hreads, hcur, horder⟩ := h.flight_back
  exact h.inbound (by rw [← List.eraseIdx_map, hframes]) (fun z hz => hreads z (hsub.subset hz))
    (fun z hz => hcur z (hsub.subset hz)) (horder.sublist hsub)

theorem pairwise_set {α : Type} {R : α → α → Prop} {l : List α} {b : α} (h : l.Pairwise R)
    (hb : ∀ a, R a b ∧ R b a) (k : Nat) : (l.set k b).Pairwise R := by
  induction l generalizing k with
  | nil => exact List.Pairwise.nil
  | cons a l ih =>
    obtain ⟨ha, hl⟩ := List.pairwise_cons.mp h
    cases k with
    | zero => exact List.pairwise_cons.mpr ⟨fun c _ => (hb c).2, hl⟩
    | succ k =>
      refine List.pairwise_cons.mpr ⟨fun c hc => ?_, ih hl k⟩
      rcases List.mem_or_eq_of_mem_set hc with hc | rfl
      · exact ha c hc
      · exact (hb a).1

/-- A corruption leaves a frame without a tag. -/
theorem Joined.corrupt (h : Joined x y m n fy fx) (k : Nat) {b : Bytes}
    (hb : decodeFrame x.engine.cfg b = .corruptFrame) :
    Joined { x with inbound := x.inbound.set k b } y m n fy (fx.set k (b, none)) := by
  obtain ⟨hframes, hreads, hcur, horder⟩ := h.flight_back
  refine h.inbound (by rw [List.map_set, hframes]) (fun z hz => ?_) (fun z hz t ht => ?_)
    (pairwise_set horder (fun z => ⟨by simp, by simp⟩) k)
  · rcases List.mem_or_eq_of_mem_set hz with hz | rfl
    · exact hreads z hz
    · exact hb
  · rcases List.mem_or_eq_of_mem_set hz with hz | rfl
    · exact hcur z hz t ht
    · cases ht

/-- What is known of a frame on arrival, when those behind it are `rest`. -/
structure Arrival (x y : End) (m n : Counts) (rest : List (Bytes × Option Tag)) (f : Bytes)
    (tag : Option Tag) : Prop where
  reads   : Reads x.engine.cfg y.submitted f tag
  current : ∀ t ∈ tag, t.Current y x n m
  order   : ∀ z ∈ rest, ∀ t ∈ tag, ∀ t' ∈ z.2, t.Before x.engine.cfg.w t'

/-- The oldest frame in flight arrives. -/
theorem Joined.present (h : Joined x y m n fy fx) {f : Bytes} (hf : x.inbound[0]? = some f) :
    ∃ tag rest, Joined { x with inbound := x.inbound.eraseIdx 0 } y m n fy rest ∧ Arrival x y m n rest f tag := by
  obtain ⟨hframes, hreads, hcur, horder⟩ := h.flight_back
  have hlost := h.lose 0
  cases fx with
  | nil => rw [← hframes] at hf; cases hf
  | cons z rest =>
    obtain rfl : z.1 = f := by
      rw [← hframes] at hf
      exact Option.some.inj hf
    exact ⟨z.2, rest, hlost, hreads z List.mem_cons_self, hcur z List.mem_cons_self,
      (List.pairwise_cons.mp horder).1⟩

end Ends

end Sys2Proof.Machine

/-! PROOF. An engine's step on a link: what each handler does to two joined ends, and the statement that follows:
LinkDeliversInOrder. -/

namespace Sys2Proof.Machine

/-! ### The two ends in the course of a step -/

/-- The moving end of a link when its engine has come to `u` (log 17). -/
def End.after (x : End) (u : State) : End :=
  { x with engine := u, delivered := x.delivered ++ u.actions.filterMap Action.payload }

/-- The other end by then. -/
def End.hears (y : End) (u : State) : End :=
  { y with inbound := y.inbound ++ u.actions.filterMap Action.frame }

/-- From `s` to `t` an engine sends some frames as it stands, and does nothing else that reaches the link. -/
structure State.Speaks (s t : State) : Prop where
  sides    : s.SameSides t
  frames   : ∃ fs : List Frame, (∀ f ∈ fs, s.Sendable f) ∧
    t.actions.filterMap Action.frame = s.actions.filterMap Action.frame ++ fs.map (encodeFrame s.cfg)
  payloads : t.actions.filterMap Action.payload = s.actions.filterMap Action.payload

section Speaking

variable {s t : State}

theorem State.Sends.speaks {fs : List Frame} (h : s.Sends t fs []) (hs : s.SameSides t)
    (hfs : ∀ f ∈ fs, s.Sendable f) : s.Speaks t :=
  ⟨hs, ⟨fs, hfs, h.frames⟩, h.payloads.trans (List.append_nil _)⟩

/-- Nothing that reaches the link at all. -/
theorem State.Speaks.of_quiet (hs : s.SameSides t) (hacts : t.actions = s.actions) : s.Speaks t :=
  ⟨hs, ⟨[], by simp, by simp [hacts]⟩, by rw [hacts]⟩

theorem State.Speaks.of_classify {c : FrameClass} (h : (s.classify c).Speaks t) : s.Speaks t :=
  ⟨(s.classify_sides c).trans h.sides, h.frames, h.payloads⟩

theorem State.nakOrDefer_speaks (s : State) (q : Nat) : s.Speaks (s.nakOrDefer q) := by
  obtain ⟨fs, hsends, hfs⟩ := s.nakOrDefer_sends q
  refine hsends.speaks (s.nakOrDefer_sides q) ?_
  rcases hfs with rfl | ⟨-, rfl⟩
  · simp
  · exact List.forall_mem_singleton.mpr (.inr (.inl rfl))

theorem State.nakResend_speaks (s : State) (a : Nat) : s.Speaks (s.nakResend a) := by
  obtain ⟨fs, hsends, hfs⟩ := s.nakResend_sends a
  refine hsends.speaks (s.nakResend_sides a) ?_
  rcases hfs with rfl | ⟨hout, rfl⟩
  · simp
  · exact List.forall_mem_singleton.mpr (.inr (.inr ⟨_, inc_le _, hout, rfl⟩))

theorem State.retxTimeout_speaks {q : Nat} (h : s.genuineRetx q = true) : s.Speaks (s.retxTimeout q) := by
  have hgen := h
  rw [State.genuineRetx, Bool.and_eq_true, Bool.and_eq_true, decide_eq_true_iff] at hgen
  obtain ⟨⟨hq, hout⟩, -⟩ := hgen
  exact (s.retxTimeout_sends h).speaks (s.retxTimeout_sides q)
    (List.forall_mem_singleton.mpr (.inr (.inr ⟨q, hq, hout, rfl⟩)))

theorem State.sendNak_speaks (s : State) : s.Speaks s.sendNak :=
  s.sendNak_sends.speaks (s.transmit_sides .nak 0) (List.forall_mem_singleton.mpr (.inr (.inl rfl)))

theorem State.resend_speaks {q : Nat} (hq : q ≤ s.cfg.maxSeq) (hout : s.outstanding q = true) :
    s.Speaks (s.resend q) :=
  (s.resend_sends q).speaks (s.resend_sides q) (List.forall_mem_singleton.mpr (.inr (.inr ⟨q, hq, hout, rfl⟩)))

end Speaking

section Course

variable {x y : End} {m n : Counts} {fy fx : List (Bytes × Option Tag)} {s t : State}

/-- At the entry of a handler nothing has reached the link. -/
theorem Joined.entry (h : Joined x y m n fy fx) (hs : x.engine.SameSides s) (hacts : s.actions = []) :
    Joined (x.after s) (y.hears s) m n fy fx := by
  have hx : x.after s = { x with engine := s } := by simp [End.after, hacts]
  have hy : y.hears s = y := by simp [End.hears, hacts]
  rw [hx, hy]
  exact h.engine hs

theorem Joined.speaks (h : Joined (x.after s) (y.hears s) m n fy fx) (hs : s.Speaks t) :
    ∃ fy', Joined (x.after t) (y.hears t) m n fy' fx := by
  obtain ⟨hsides, ⟨fs, hfs, hframes⟩, hpayloads⟩ := hs
  obtain ⟨fy', h'⟩ := h.sendAll hfs
  refine ⟨fy', ?_⟩
  have hx : x.after t = { x.after s with engine := t } := by simp [End.after, hpayloads]
  have hy : y.hears t = { y.hears s with
      inbound := (y.hears s).inbound ++ fs.map (encodeFrame (x.after s).engine.cfg) } := by
    simp [End.hears, End.after, hframes]
  rw [hx, hy]
  exact h'.engine hsides

/-- Two ends joined in some way. -/
def Linked (x y : End) : Prop := ∃ m n fy fx, Joined x y m n fy fx

theorem Linked.symm (h : Linked x y) : Linked y x := by
  obtain ⟨m, n, fy, fx, h⟩ := h
  exact ⟨n, m, fx, fy, h.symm⟩

theorem Linked.speaks (h : Linked (x.after s) (y.hears s)) (hs : s.Speaks t) : Linked (x.after t) (y.hears t) := by
  obtain ⟨m, n, fy, fx, h⟩ := h
  obtain ⟨fy', h'⟩ := h.speaks hs
  exact ⟨m, n, fy', fx, h'⟩

/-- ACK_THROUGH of what a frame on arrival acknowledges. -/
theorem Joined.acks (h : Joined (x.after s) (y.hears s) m n fy fx) {e : Nat} (hlow : m.acked ≤ e) (hhigh : e ≤ n.got)
    (hrest : ∀ z ∈ fx, ∀ t ∈ z.2, e ≤ t.upTo) :
    Linked (x.after (s.ackThrough (ackOf s.cfg e))) (y.hears (s.ackThrough (ackOf s.cfg e))) := by
  have hsends := s.ackThrough_sends (ackOf s.cfg e)
  have hx : x.after (s.ackThrough (ackOf s.cfg e)) = { x.after s with engine := s.ackThrough (ackOf s.cfg e) } := by
    simp [End.after, hsends.payloads]
  have hy : y.hears (s.ackThrough (ackOf s.cfg e)) = y.hears s := by simp [End.hears, hsends.frames]
  rw [hx, hy]
  exact ⟨_, _, _, _, h.ack hlow hhigh hrest⟩

/-- The state of RX_DATA between ON_DATA and ACK_THROUGH (R186). -/
def State.take (s : State) (q : Nat) (p : Bytes) : State :=
  (s.onData q p).out.foldl State.deliver ((s.onData q p).state.classify (s.onData q p).cls)

theorem State.rxData_eq (s : State) (a q : Nat) (p : Bytes) :
    s.rxData a q p = ((s.nakOrDefer q).take q p).ackThrough a := rfl

theorem State.take_sends (s : State) (q : Nat) (p : Bytes) : s.Sends (s.take q p) [] (s.onData q p).out :=
  ((s.onData_sends q p).trans (State.classify_sends _ _)).trans (State.deliveries_sends _ _)

theorem State.take_sides (s : State) (q : Nat) (p : Bytes) : (s.onData q p).state.SameSides (s.take q p) :=
  (State.classify_sides _ _).trans (State.deliveries_sides _ _)

/-- ON_DATA of the packet a frame on arrival carries, with its deliveries. -/
theorem Joined.takes (h : Joined (x.after s) (y.hears s) m n fy fx) {k : Nat} {p : Bytes}
    (hk : y.submitted[k]? = some p) (hbelow : s.Below m.got (k + s.cfg.w))
    (hrest : ∀ z ∈ fx, ∀ t ∈ z.2, ∀ k' ∈ t.data, k < k' + s.cfg.w) : ∃ got,
    Joined (x.after (s.take (k % s.cfg.r) p)) (y.hears (s.take (k % s.cfg.r) p)) ⟨m.acked, got⟩ n fy fx := by
  obtain ⟨got, h'⟩ := h.receive (o := s.onData (k % s.cfg.r) p) rfl hk hbelow hrest
  have hsends := s.take_sends (k % s.cfg.r) p
  have hx : x.after (s.take (k % s.cfg.r) p) = { x.after s with
      engine := s.take (k % s.cfg.r) p,
      delivered := (x.after s).delivered ++ (s.onData (k % s.cfg.r) p).out } := by
    simp [End.after, hsends.payloads]
  have hy : y.hears (s.take (k % s.cfg.r) p) = y.hears s := by simp [End.hears, hsends.frames]
  rw [hx, hy]
  exact ⟨got, h'.engine (s.take_sides _ p)⟩

end Course

/-! ### The handlers -/

section Handlers

variable {x y : End} {m n : Counts} {fy fx : List (Bytes × Option Tag)} {s : State} {e : Event}

/-- Events other than a packet to send and a buffer received. -/
theorem State.handle_speaks (hoffer : e.code ≠ 1#3) (hframe : e.code ≠ 3#3) : s.Speaks (s.handle e) := by
  have h := s.handling e
  generalize s.handle e = t at h ⊢
  cases h with
  | recorded => exact .of_quiet (s.raise_sides _) rfl
  | submitted hc => exact absurd hc hoffer
  | channelReady => exact .of_quiet s.noteChannelReady_sides rfl
  | corruptNak hc => exact absurd hc hframe
  | corruptDeferred hc => exact absurd hc hframe
  | malformed hc => exact absurd hc hframe
  | data hc => exact absurd hc hframe
  | nak hc => exact absurd hc hframe
  | ack hc => exact absurd hc hframe
  | expired _ hgen => exact State.retxTimeout_speaks hgen
  | deferralOver =>
    exact (s.disarmAck_sends.trans (State.sendAck_sends _)).speaks
      (s.disarmAck_sides.trans (State.transmit_sides _ .ack 0)) (List.forall_mem_singleton.mpr (.inl rfl))

/-- UPPER_READY with the packet handed over (R180). -/
theorem Linked.offer {p : Bytes} {rest : List Bytes} (h : Linked (x.after s) (y.hears s))
    (hp : p.length = s.cfg.fixedLen) (hadm : s.admissible = true) :
    Linked ({ x with waiting := rest, submitted := x.submitted ++ [p] }.after (s.upperReady p))
      (y.hears (s.upperReady p)) := by
  obtain ⟨m, n, fy, fx, h⟩ := h
  have hroom : s.bufferedCount < s.cfg.w := of_decide_eq_true (Bool.and_eq_true_iff.mp hadm).1
  have hcons : s.senderWindow.Consistent := h.out.holds.consistent
  have hnext : s.nextToSend ≤ s.cfg.maxSeq := hcons.next_to_send
  have hsub : Linked ({ x with waiting := rest, submitted := x.submitted ++ [p] }.after (s.submit p))
      (y.hears (s.submit p)) := ⟨m, n, fy, fx, h.submit hroom hp rest⟩
  rw [State.upperReady_of_admissible hp hadm]
  exact hsub.speaks (State.resend_speaks (s := s.submit p) hnext
    ((State.submit_outstanding_iff hcons hroom p hnext).mpr (.inr rfl)))

theorem Reads.of_data {c : Config} {sent : List Bytes} {f p : Bytes} {a q : Nat} {tag : Option Tag}
    (h : Reads c sent f tag) (hd : decodeFrame c f = .data a q p) :
    ∃ e k, tag = some ⟨e, some k⟩ ∧ sent[k]? = some p ∧ a = ackOf c e ∧ q = k % c.r := by
  match tag, h with
  | none, h => exact absurd (hd.symm.trans h) (by simp)
  | some ⟨_, none⟩, .inl h => exact absurd (hd.symm.trans h) (by simp)
  | some ⟨_, none⟩, .inr h => exact absurd (hd.symm.trans h) (by simp)
  | some ⟨e, some k⟩, ⟨p', hk, h⟩ =>
    obtain ⟨rfl, rfl, rfl⟩ := DecodeResult.data.inj (hd.symm.trans h)
    exact ⟨e, k, rfl, hk, rfl, rfl⟩

theorem Reads.of_control {c : Config} {sent : List Bytes} {f : Bytes} {a : Nat} {tag : Option Tag}
    (h : Reads c sent f tag) (hd : decodeFrame c f = .ack a ∨ decodeFrame c f = .nak a) :
    ∃ e, tag = some ⟨e, none⟩ ∧ a = ackOf c e := by
  match tag, h with
  | none, h => rcases hd with hd | hd <;> exact absurd (hd.symm.trans h) (by simp)
  | some ⟨_, some _⟩, ⟨_, _, h⟩ => rcases hd with hd | hd <;> exact absurd (hd.symm.trans h) (by simp)
  | some ⟨e, none⟩, h => rcases hd with hd | hd <;> exact ⟨e, rfl, by simpa [Reads, hd] using h⟩

/-- RX_DATA of a frame on arrival (R186). -/
theorem Joined.rxData {f p : Bytes} {a q : Nat} {tag : Option Tag} (h : Joined (x.after s) (y.hears s) m n fy fx)
    (harr : Arrival (x.after s) (y.hears s) m n fx f tag) (hd : decodeFrame s.cfg f = .data a q p) :
    Linked (x.after (s.rxData a q p)) (y.hears (s.rxData a q p)) := by
  obtain ⟨hreads, hcur, horder⟩ := harr
  obtain ⟨e, k, rfl, hk, rfl, rfl⟩ := hreads.of_data hd
  obtain ⟨hlow, hhigh, hdata⟩ := hcur _ rfl
  have hsides := s.nakOrDefer_sides (k % s.cfg.r)
  have hcfg : (s.nakOrDefer (k % s.cfg.r)).cfg = s.cfg := State.cfg_eq_of_senderSide hsides.sender
  have htake := ((s.nakOrDefer (k % s.cfg.r)).take_sends (k % s.cfg.r) p).cfg.trans hcfg
  obtain ⟨fy', hsaid⟩ := h.speaks (s.nakOrDefer_speaks (k % s.cfg.r))
  have hbelow : (s.nakOrDefer (k % s.cfg.r)).Below m.got (k + (s.nakOrDefer (k % s.cfg.r)).cfg.w) := by
    rw [hcfg]
    exact (hdata k rfl).2.congr hsides.receiver
  obtain ⟨got, htaken⟩ := hsaid.takes hk hbelow fun z hz t ht k' hk' => by
    rw [hcfg]
    exact (horder z hz _ rfl t ht).data k rfl k' hk'
  rw [hcfg] at htaken
  have hacked := htaken.acks hlow hhigh fun z hz t ht => (horder z hz _ rfl t ht).upTo
  rw [htake] at hacked
  exact State.rxData_eq s _ _ _ ▸ hacked

theorem Joined.rxControl {f : Bytes} {a : Nat} {tag : Option Tag} (h : Joined (x.after s) (y.hears s) m n fy fx)
    (harr : Arrival (x.after s) (y.hears s) m n fx f tag)
    (hd : decodeFrame s.cfg f = .ack a ∨ decodeFrame s.cfg f = .nak a) {u : State} (hs : s.Speaks u) :
    Linked (x.after (u.ackThrough a)) (y.hears (u.ackThrough a)) := by
  obtain ⟨hreads, hcur, horder⟩ := harr
  obtain ⟨e, rfl, rfl⟩ := hreads.of_control hd
  obtain ⟨hlow, hhigh, -⟩ := hcur _ rfl
  have hcfg : u.cfg = s.cfg := State.cfg_eq_of_senderSide hs.sides.sender
  obtain ⟨fy', hsaid⟩ := h.speaks hs
  have hacked := hsaid.acks hlow hhigh fun z hz t ht => (horder z hz _ rfl t ht).upTo
  rwa [hcfg] at hacked

/-- FRAME_RECEIVED with the oldest frame in flight (R183). -/
theorem Linked.frame (h : Linked (x.after s) (y.hears s)) (hc : e.code = 3#3) (hf : x.inbound[0]? = some e.data) :
    Linked ({ x with inbound := x.inbound.eraseIdx 0 }.after (s.handle e)) (y.hears (s.handle e)) := by
  obtain ⟨m, n, fy, fx, h⟩ := h
  obtain ⟨tag, rest, h, hreads, hcur, horder⟩ := h.present hf
  replace h : Joined ({ x with inbound := x.inbound.eraseIdx 0 }.after s) (y.hears s) m n fy rest := h
  have harr : Arrival ({ x with inbound := x.inbound.eraseIdx 0 }.after s) (y.hears s) m n rest e.data tag :=
    ⟨hreads, fun t ht => (hcur t ht).congr rfl rfl, horder⟩
  have hlinked : Linked ({ x with inbound := x.inbound.eraseIdx 0 }.after s) (y.hears s) := ⟨m, n, fy, rest, h⟩
  have hh := s.handling e
  generalize s.handle e = t at hh ⊢
  cases hh with
  | recorded => exact hlinked.speaks (.of_quiet (s.raise_sides _) rfl)
  | submitted hc' => simp [hc] at hc'
  | channelReady hc' => simp [hc] at hc'
  | corruptNak => exact hlinked.speaks (State.sendNak_speaks (s.classify .corrupt)).of_classify
  | corruptDeferred =>
    exact hlinked.speaks (((s.classify_sends _).trans (State.armAck_sends _ _)).speaks
      ((s.classify_sides _).trans (State.armAck_sides _ _)) (by simp))
  | malformed => exact hlinked.speaks (.of_quiet ((s.classify_sides _).trans (State.raise_sides _ _)) rfl)
  | data _ hd => exact h.rxData harr hd
  | nak _ hd => exact h.rxControl harr (.inr hd) (State.nakResend_speaks _ _).of_classify
  | ack _ hd => exact h.rxControl harr (.inl hd) (.of_quiet (s.classify_sides _) rfl)
  | expired hc' => simp [hc] at hc'
  | deferralOver hc' => simp [hc] at hc'

end Handlers

/-! ### The moves of a link -/

section Moves

variable {x y : End} {s t : State} {e : Event} {l l' : Link} {d : Side}

theorem State.finishStep_speaks (s : State) : s.Speaks s.finishStep := .of_quiet ⟨rfl, rfl⟩ rfl

/-- The state in which the handler of an event presented alone starts. -/
def State.presented (s : State) (e : Event) : State := ({ s with inputs := [.event e] } : State).beginStep []

theorem Linked.presented (h : Linked x y) (e : Event) :
    Linked (x.after (x.engine.presented e)) (y.hears (x.engine.presented e)) := by
  obtain ⟨m, n, fy, fx, h⟩ := h
  exact ⟨m, n, fy, fx, h.entry ⟨rfl, rfl⟩ rfl⟩

/-- Two ends of a link that keeps order are joined, and neither gate is stale (R32). -/
structure Link.Sound (l : Link) : Prop where
  order     : l.order = .fifo
  linked    : Linked l.a l.b
  admission : l.a.engine.AdmissionInv ∧ l.b.engine.AdmissionInv

theorem Link.sound_iff (l : Link) (d : Side) : l.Sound ↔ l.order = .fifo ∧ Linked (l.near d) (l.far d) ∧
    (l.near d).engine.AdmissionInv ∧ (l.far d).engine.AdmissionInv := by
  cases d with
  | a => exact ⟨fun ⟨ho, hj, hadm⟩ => ⟨ho, hj, hadm⟩, fun ⟨ho, hj, hadm⟩ => ⟨ho, hj, hadm⟩⟩
  | b => exact ⟨fun ⟨ho, hj, hadm⟩ => ⟨ho, hj.symm, hadm.symm⟩, fun ⟨ho, hj, hadm⟩ => ⟨ho, hj.symm, hadm.symm⟩⟩

theorem Linked.setInbound (h : Linked x y) {fs : List Bytes}
    (hj : ∀ {m n fy fx}, Joined x y m n fy fx → ∃ fx', Joined { x with inbound := fs } y m n fy fx') :
    Linked { x with inbound := fs } y := by
  obtain ⟨m, n, fy, fx, h⟩ := h
  obtain ⟨fx', h'⟩ := hj h
  exact ⟨m, n, fy, fx', h'⟩

/-- An engine's step from a sound link `k` to which the move `l` did something first. -/
theorem Link.Sound.engineStep {k : Link} (hk : k.Sound) (ho : l.order = k.order) (hfar : l.far d = k.far d)
    (heng : (l.near d).engine = (k.near d).engine) (hs : l.engineStep d e = some l')
    (hlinked : Linked ((l.near d).after (((k.near d).engine.presented e).handle e))
      ((k.far d).hears (((k.near d).engine.presented e).handle e))) : l'.Sound := by
  obtain ⟨t, ht, hnear', hfar', ho'⟩ := Link.engineStep_cases hs
  rw [heng] at ht
  rw [Link.sound_iff _ d] at hk
  obtain ⟨hfifo, -, -, hadm⟩ := hk
  have hgate : t.AdmissionInv := step_admissionInv (by simp) ht
  obtain rfl : t = (((k.near d).engine.presented e).handle e).finishStep := State.react_eq ht
  rw [Link.sound_iff _ d, hnear', hfar', hfar]
  exact ⟨ho'.trans (ho.trans hfifo), hlinked.speaks (State.finishStep_speaks _), hgate, hadm⟩

theorem Link.Sound.setInbound (h : l.Sound) {fs : List Bytes}
    (hj : Linked { l.near d with inbound := fs } (l.far d)) : (l.setInbound d fs).Sound := by
  rw [Link.sound_iff _ d] at h ⊢
  rw [Link.near_setInbound, Link.far_setInbound, Link.order_setInbound]
  exact ⟨h.1, hj, h.2.2⟩

theorem Link.Sound.move {m : LinkMove} (h : l.Sound) (hm : l.move m = some l') : l'.Sound := by
  obtain ⟨d, hcases⟩ := Link.move_cases hm
  obtain ⟨hfifo, hlinked, hadm, -⟩ := (l.sound_iff d).mp h
  have hpresented := hlinked.presented
  rcases hcases with ⟨k, rfl⟩ | ⟨k, b, hb, rfl⟩ | ⟨k, f, hf, hallow, hs⟩ | ⟨p, rest, hopen, hp, hs⟩ |
    ⟨e, hoffer, hframe, hs⟩
  · exact h.setInbound (hlinked.setInbound fun hj => ⟨_, hj.lose k⟩)
  · exact h.setInbound (hlinked.setInbound fun hj => ⟨_, hj.corrupt k hb⟩)
  · rw [hfifo] at hallow
    obtain rfl : k = 0 := of_decide_eq_true hallow
    refine h.engineStep (by simp) (by simp) (by simp) hs ?_
    rw [Link.near_setInbound]
    exact (hpresented _).frame rfl hf
  · refine h.engineStep (by simp) (by simp) (by simp) hs ?_
    rw [Link.near_handOver, State.handle_upperReady rfl]
    exact (hpresented _).offer (of_decide_eq_true hp) (hadm.symm.trans hopen)
  · exact h.engineStep rfl rfl rfl hs ((hpresented e).speaks (State.handle_speaks hoffer hframe))

end Moves

/-! ### The start -/

section Start

variable {x y : End} {s : State}

theorem State.AfterReset.holds (h : s.AfterReset) (hl : s.cfg.legal = true) : s.Holds [] 0 where
  legal := hl
  ack_expected := by rw [h.ack_expected, Nat.zero_mod]
  next_to_send := by rw [h.next_to_send, List.length_nil, Nat.zero_mod]
  count := by rw [h.buffered_count, List.length_nil]
  bound := h.buffered_count ▸ Nat.zero_le _
  packets k _ hk := absurd hk (Nat.not_lt_zero k)

/-- No slot has arrived. -/
theorem State.AfterReset.arrived_getD (h : s.AfterReset) (i : Nat) : s.arrived.getD i false = false := by
  rw [h.arrived, List.getD_eq_getElem?_getD, List.getElem?_replicate]
  split_ifs <;> rfl

theorem State.AfterReset.awaits (h : s.AfterReset) (hl : s.cfg.legal = true) : s.Awaits [] 0 where
  legal := hl
  expected := by rw [h.expected, Nat.zero_mod]
  too_far := by rw [h.too_far, Nat.zero_add]
  arrived_length := by rw [h.arrived, List.length_replicate]
  upto := Nat.le_refl 0
  stored j _ _ ha := absurd ha (by rw [h.arrived_getD]; exact Bool.false_ne_true)
  waiting := h.arrived_getD _

theorem End.Fresh.half (hx : x.Fresh) (hy : y.Fresh) : Half x y ⟨0, 0⟩ ⟨0, 0⟩ := by
  obtain ⟨hsub, -⟩ := hx.handed
  refine ⟨?_, ?_, ?_, Nat.le_refl 0, ?_⟩
  · rw [hsub]
    exact hx.reset.holds hx.legal
  · rw [hsub]
    exact hy.reset.awaits hy.legal
  · rw [hy.handed.2, List.take_zero]
  · simp [hsub]

theorem End.Fresh.flight (hy : y.Fresh) : Flight x y ⟨0, 0⟩ ⟨0, 0⟩ [] :=
  ⟨hy.in_flight.symm, by simp, by simp, List.Pairwise.nil⟩

theorem State.AfterReset.admissionInv (h : s.AfterReset) : s.AdmissionInv := by
  rw [State.AdmissionInv, State.admissible, h.adm_enable, h.chan_ready, Bool.and_false]

theorem Link.Start.sound {l : Link} (h : l.Start) (ho : l.order = .fifo) : l.Sound := by
  obtain ⟨⟨ha, hb⟩, hpeers⟩ := h
  exact ⟨ho, ⟨_, _, [], [], hpeers, ha.half hb, hb.half ha, hb.flight, ha.flight⟩,
    ha.reset.admissionInv, hb.reset.admissionInv⟩

end Start

/-- Settles O59: the two ends stay joined over every move, and what a joined end was delivered is the first packets
its peer submitted. -/
theorem linkDeliversInOrder : Obligations.LinkDeliversInOrder := by
  intro l₀ l ms hstart hfifo hrun
  obtain ⟨-, ⟨m, n, fy, fx, h⟩, -⟩ :=
    Link.run_induction (P := Link.Sound) (fun _ _ _ hk hm => hk.move hm) (hstart.sound hfifo) hrun
  rw [h.out.delivered, h.back.delivered]
  exact ⟨List.take_prefix _ _, List.take_prefix _ _⟩

end Sys2Proof.Machine
